-- ==== Sys2Proof/Word.lean ====
section
/-! DEFINITION. The word types of the block: bytes, byte strings and the fixed-width unsigned integers of 00_scope.md R8, R9. -/

namespace Sys2Proof

/-- An unsigned 8-bit integer, the spec's u8 (00_scope.md R8). -/
abbrev Byte := BitVec 8

/-- A byte string: a finite sequence of u8 (00_scope.md R9). -/
abbrev Bytes := List Byte

/-- The spec's u16. -/
abbrev Half := BitVec 16

/-- The spec's u32. -/
abbrev Word := BitVec 32

/-- `rotl_32(x, n)` of 00_scope.md R8. -/
abbrev rotl32 (x : Word) (n : Nat) : Word := x.rotateLeft n

/-- `rotr_32(x, n)` of 00_scope.md R8. -/
abbrev rotr32 (x : Word) (n : Nat) : Word := x.rotateRight n

end Sys2Proof
end

