-- ==== Sys2Proof/Config.lean ====
section
/-! DEFINITION. The parameters of 00_scope.md R7, and the values that the spec leaves open. -/

namespace Sys2Proof

/-- The parameters that 00_scope.md R7 and 20_memory.md R40 make arguments of a model. They stand in State as
plain data that no command changes, so a statement about every state holds for every value of them
(log entry 5, DESIGN CHOICE, safe). -/
structure Config where
  /-- PAYLOAD_BUF_MAX: the largest payloadLength the decoder can buffer, "any value ≥ 0 and ≤ 2^32 − 1". -/
  payloadBufMax : Word
  /-- MAX_OPERAND_LEN: the largest length of one operand, "any value ≥ 87472". -/
  maxOperandLen : Nat
  /-- PLATFORM_BASE: where the CSR space sits in a host's address space, "anywhere or nowhere". No rule reads it. -/
  platformBase : Option Nat
deriving DecidableEq, Repr

/-- The range that 00_scope.md R7 gives MAX_OPERAND_LEN; PAYLOAD_BUF_MAX's range is its type. -/
abbrev Config.Valid (c : Config) : Prop := 87472 ≤ c.maxOperandLen

/-- The values that this hardware takes (00_scope.md R7). PLATFORM_BASE is left to the platform: mapped nowhere
(log entry 6, DESIGN CHOICE). -/
def Config.thisHardware : Config :=
  { payloadBufMax := 65536, maxOperandLen := 131072, platformBase := none }

/-- FREE VALUE: the 16-bit count field of a response of 2^16 outputs or more, which `be16` does not encode
(00_scope.md R9; log entry 7, DESIGN CHOICE, safe: nothing is known of it). -/
opaque Config.wideCount : Nat → Half

/-- FREE VALUE: the 32-bit length field for a byte string of 2^32 bytes or more, which `be32` does not encode
(00_scope.md R9; log entry 7, DESIGN CHOICE, safe: nothing is known of it). -/
opaque Config.wideLength : Nat → Word

/-- FREE VALUE: the x-coordinate given for the point at infinity, a case that 44_ecdh_secp256k1.md R120 derives is
never reached (log entry 9, DESIGN CHOICE, safe: nothing is known of it). -/
opaque Config.infinityX : BitVec 256

end Sys2Proof
end

