-- ==== Sys2Proof/Machine/Bytes.lean ====
section
/-! DEFINITION. Byte strings and byte order: the functions of 00_scope.md R9 (beN, leN, u16be, u24be, u32be, u32le,
int_be, slices, zeros, rep), big-endian at the interface and as each algorithm fixes inside (20_memory.md R33, R34). -/

namespace Sys2Proof.Machine

/-- `zeros(n)`. -/
def zeros (n : Nat) : Bytes := List.replicate n 0

/-- `rep(v, n)`. -/
def rep (v : Byte) (n : Nat) : Bytes := List.replicate n v

/-- The half-open slice `b[i..j)`. -/
def slice (b : Bytes) (i j : Nat) : Bytes := (b.drop i).take (j - i)

/-- `a ⊕ b` of byte strings of equal length. -/
def xorBytes (a b : Bytes) : Bytes := List.zipWith (· ^^^ ·) a b

/-- `be16(v)`. -/
def be16 (v : Half) : Bytes := [v.extractLsb' 8 8, v.extractLsb' 0 8]

/-- `be32(v)`. -/
def be32 (v : Word) : Bytes :=
  [v.extractLsb' 24 8, v.extractLsb' 16 8, v.extractLsb' 8 8, v.extractLsb' 0 8]

/-- `be64(v)`. -/
def be64 (v : BitVec 64) : Bytes := be32 (v.extractLsb' 32 32) ++ be32 (v.extractLsb' 0 32)

/-- `le32(v)`. -/
def le32 (v : Word) : Bytes :=
  [v.extractLsb' 0 8, v.extractLsb' 8 8, v.extractLsb' 16 8, v.extractLsb' 24 8]

/-- `u16be(b)`, of the first two bytes of b. -/
def u16be (b : Bytes) : Half := b.getD 0 0 ++ b.getD 1 0

/-- `u24be(b)`, of the first three bytes of b. -/
def u24be (b : Bytes) : BitVec 24 := b.getD 0 0 ++ b.getD 1 0 ++ b.getD 2 0

/-- `u32be(b)`, of the first four bytes of b. -/
def u32be (b : Bytes) : Word := b.getD 0 0 ++ b.getD 1 0 ++ b.getD 2 0 ++ b.getD 3 0

/-- `u32le(b)`, of the first four bytes of b. -/
def u32le (b : Bytes) : Word := b.getD 3 0 ++ b.getD 2 0 ++ b.getD 1 0 ++ b.getD 0 0

/-- `int_be(b)`: a byte string of any length as a big-endian integer. -/
def intBe (b : Bytes) : Nat := b.foldl (fun acc x => acc * 256 + x.toNat) 0

/-- The big-endian encoding of an integer in k bytes; `be256(v)` is `beNat 32 v`. -/
def beNat : Nat → Nat → Bytes
  | 0, _ => []
  | k + 1, v => beNat k (v / 256) ++ [BitVec.ofNat 8 v]

/-- `bitlen(v)`: the number of significant bits, 0 for 0. -/
def bitlen (v : Nat) : Nat := if v = 0 then 0 else Nat.log2 v + 1

/-- The first k pieces of n bytes each; the last may be shorter. -/
def chunksOf (n : Nat) : Nat → Bytes → List Bytes
  | 0, _ => []
  | k + 1, b => b.take n :: chunksOf n k (b.drop n)

/-- A count as the u16 that `be16` encodes; a free value where it does not fit (log entry 7). -/
def count16 (n : Nat) : Half := if n < 2 ^ 16 then BitVec.ofNat 16 n else Config.wideCount n

/-- A length as the u32 that `be32` encodes; a free value where it does not fit (log entry 7). -/
def length32 (n : Nat) : Word := if n < 2 ^ 32 then BitVec.ofNat 32 n else Config.wideLength n

/-- A length-prefixed byte string: 4 bytes of big-endian length, then the bytes (30_encoding.md R49, R52). -/
def lengthPrefixed (b : Bytes) : Bytes := be32 (length32 b.length) ++ b

end Sys2Proof.Machine
end

