-- ==== Sys2Proof/Machine/State.lean ====
section
/-! DEFINITION. The state of the block: the record of 10_state.md R15, the parameters of 00_scope.md R7, and the
command port of 20_memory.md R42; its value after reset (10_state.md R31); the reasons a step could stop. -/

namespace Sys2Proof.Machine

/-- The decoder state `dstate` (10_state.md R26). -/
inductive DState where
  /-- AWAIT_HEADER, encoding 0. -/
  | awaitHeader
  /-- AWAIT_PAYLOAD, encoding 1. -/
  | awaitPayload
  /-- CLOSED, encoding 2; sticky (41_frame_codec.md R83). -/
  | closed
  /-- FAULTED, encoding 3; sticky (41_frame_codec.md R80). -/
  | faulted
deriving DecidableEq, Repr

/-- The whole state. -/
structure State where
  /-- The parameters of 00_scope.md R7; no command writes them. -/
  cfg : Config
  /-- `crc`, the running CRC register (10_state.md R16). -/
  crc : Half
  /-- `dstate` (10_state.md R26). -/
  dstate : DState
  /-- `dbuf`, the bytes of the response frame in progress (10_state.md R27). -/
  dbuf : Bytes
  /-- `dlen`, payloadLength of the frame in progress (10_state.md R27). -/
  dlen : Word
  /-- `maxpay`, the decoder's payloadLength cap (10_state.md R21). -/
  maxpay : Word
  /-- `last_status` (10_state.md R25). -/
  lastStatus : Byte
  /-- `last_sub` (10_state.md R25). -/
  lastSub : Byte
  /-- The model's own: descriptors delivered on the command port and not yet executed, oldest first
  (20_memory.md R42; log entry 1, DESIGN CHOICE). -/
  pending : List Bytes
  /-- The model's own: response descriptors returned, oldest first (00_scope.md R6; log entry 2, DESIGN CHOICE). -/
  responses : List Bytes
deriving DecidableEq, Repr

/-- The reasons a step could stop with a fault. There is NONE: every command completes with a response
(60_exceptions.md R150, R158; 70_reset_and_hazards.md R179), an error status included, and the block has no memory
that an access could miss (20_memory.md R32). Log entry 8, DEDUCED. -/
inductive Fault where
deriving DecidableEq, Repr

/-- The reasons a step could be refused. -/
inductive Refusal where
  /-- Raised by an arm of `exec` whose instruction has no meaning yet; safe. No arm of this model raises it. -/
  | notModelled (mnemonic : String)
deriving DecidableEq, Repr

/-- The state after power-on reset: every field at the value of 10_state.md R31, the parameters at the values
this hardware takes (00_scope.md R7), and nothing on the port (log entries 1 and 2). -/
def State.reset : State :=
  { cfg := Config.thisHardware
    crc := 0xFFFF
    dstate := .awaitHeader
    dbuf := []
    dlen := 0
    maxpay := Config.thisHardware.payloadBufMax
    lastStatus := 0
    lastSub := 0
    pending := []
    responses := [] }

end Sys2Proof.Machine
end

