-- ==== Sys2Proof/Machine/Flags.lean ====
section
/-! DEFINITION. The status flags: the status codes and sub-codes of 60_exceptions.md R148, R149, and the encoding of
`dstate` in CSR STATUS (10_state.md R26). -/

namespace Sys2Proof.Machine

/-- Every error a command can end with: one constructor for each (status, sub) pair of 60_exceptions.md R149 that is
a command's status (ERR_INTEGRITY and ERR_LENGTH(DEC_PAYLOAD_CAP) are the KIND and ESUB of events only, R148), and
ERR_OPCODE(0) and ERR_FAULTED(0). -/
inductive CmdError where
  | opcode
  | rsvNonzero | nopsMismatch | truncated | trailing | oplenFixed | oplenMax
  | range | csrAddr | csrRo
  | hkdfL | chachaCounter
  | ctLen | padValue | padBytes
  | plaintextLen | encodedLen | base64 | decodedLen | version | mac | padding | aadLen
  | scalar | point
  | clean | partialFrame | alreadyClosed | wasFaulted
  | faulted
deriving DecidableEq, Repr

/-- OK = 0x00 (60_exceptions.md R148). -/
def statusOk : Byte := 0x00

/-- The status code of an error (60_exceptions.md R148). -/
def CmdError.status : CmdError → Byte
  | .opcode => 0x01
  | .rsvNonzero | .nopsMismatch | .truncated | .trailing | .oplenFixed | .oplenMax
  | .range | .csrAddr | .csrRo => 0x02
  | .hkdfL | .chachaCounter => 0x04
  | .ctLen | .padValue | .padBytes => 0x05
  | .plaintextLen | .encodedLen | .base64 | .decodedLen | .version | .mac | .padding | .aadLen => 0x06
  | .scalar | .point => 0x07
  | .clean | .partialFrame | .alreadyClosed | .wasFaulted => 0x08
  | .faulted => 0x09

/-- The sub-code of an error (60_exceptions.md R149). -/
def CmdError.sub : CmdError → Byte
  | .opcode => 0x00
  | .rsvNonzero => 0x01
  | .nopsMismatch => 0x02
  | .truncated => 0x03
  | .trailing => 0x04
  | .oplenFixed => 0x05
  | .oplenMax => 0x06
  | .range => 0x07
  | .csrAddr => 0x08
  | .csrRo => 0x09
  | .hkdfL => 0x01
  | .chachaCounter => 0x02
  | .ctLen => 0x01
  | .padValue => 0x02
  | .padBytes => 0x03
  | .plaintextLen => 0x01
  | .encodedLen => 0x02
  | .base64 => 0x03
  | .decodedLen => 0x04
  | .version => 0x05
  | .mac => 0x06
  | .padding => 0x07
  | .aadLen => 0x08
  | .scalar => 0x01
  | .point => 0x02
  | .clean => 0x00
  | .partialFrame => 0x01
  | .alreadyClosed => 0x02
  | .wasFaulted => 0x03
  | .faulted => 0x00

/-- The `DEC_STATE` encoding of `dstate` (10_state.md R26). -/
def DState.code : DState → BitVec 2
  | .awaitHeader => 0
  | .awaitPayload => 1
  | .closed => 2
  | .faulted => 3

/-- KIND and ESUB of a FRAME event (30_encoding.md R53). -/
def eventFrame : Bytes := [0x00, 0x00]

/-- KIND and ESUB of an INTEGRITY event (30_encoding.md R53). -/
def eventIntegrity : Bytes := [0x03, 0x00]

/-- KIND and ESUB of a LENGTH event (30_encoding.md R53). -/
def eventLength : Bytes := [0x04, 0x03]

end Sys2Proof.Machine
end

