-- ==== Sys2Proof/Syntax.lean ====
section
/-! DEFINITION. The commands: one constructor of `Instr` for each row of spec/opcode_table.json (30_encoding.md R54).
Integer operands stand as integers of their width, byte-string operands as byte strings (30_encoding.md R51);
the fixed lengths of byte-string operands are checked in WellFormed.lean. -/

namespace Sys2Proof

/-- The opcodes of the opcode map (30_encoding.md R54). -/
inductive Opcode where
  | nop | csrRead | csrWrite | softReset
  | crc16 | crcInit | crcUpdate
  | frameEncode | decFeed | decEos | decReset
  | aesCbcEnc | aesCbcDec
  | hmacSha256 | hkdfExtract | hkdfExpand
  | ecdhX
  | chacha20
  | nip44Convkey | nip44Encrypt | nip44Decrypt
deriving DecidableEq, Repr

/-- One command with its operands, in the order of 30_encoding.md R54. -/
inductive Instr where
  /-- NOP (47_control.md R144). -/
  | nop
  /-- CSR_READ (47_control.md R145). -/
  | csrRead (addr : Half)
  /-- CSR_WRITE (47_control.md R146). -/
  | csrWrite (addr : Half) (value : Word)
  /-- SOFT_RESET (47_control.md R147). -/
  | softReset
  /-- CRC16 (40_crc16.md R68); `stop` is the spec's operand `end`. -/
  | crc16 (data : Bytes) (start stop : Word)
  /-- CRC_INIT (40_crc16.md R69). -/
  | crcInit
  /-- CRC_UPDATE (40_crc16.md R70). -/
  | crcUpdate (data : Bytes)
  /-- FRAME_ENCODE (41_frame_codec.md R72). -/
  | frameEncode (messageType : Half) (correlationId targetPubkey iv payload : Bytes)
  /-- DEC_FEED (41_frame_codec.md R74). -/
  | decFeed (chunk : Bytes)
  /-- DEC_EOS (41_frame_codec.md R83). -/
  | decEos
  /-- DEC_RESET (41_frame_codec.md R84). -/
  | decReset
  /-- AES_CBC_ENC (42_aes_cbc.md R100). -/
  | aesCbcEnc (key iv plaintext : Bytes)
  /-- AES_CBC_DEC (42_aes_cbc.md R102). -/
  | aesCbcDec (key iv ciphertext : Bytes)
  /-- HMAC_SHA256 (43_sha256_hmac_hkdf.md R109). -/
  | hmacSha256 (key message : Bytes)
  /-- HKDF_EXTRACT (43_sha256_hmac_hkdf.md R111). -/
  | hkdfExtract (salt ikm : Bytes)
  /-- HKDF_EXPAND (43_sha256_hmac_hkdf.md R113); `len` is the spec's operand `L`. -/
  | hkdfExpand (prk info : Bytes) (len : Half)
  /-- ECDH_X (44_ecdh_secp256k1.md R121). -/
  | ecdhX (privateKey remoteX : Bytes)
  /-- CHACHA20 (45_chacha20.md R128). -/
  | chacha20 (key nonce : Bytes) (counter : Word) (data : Bytes)
  /-- NIP44_CONVKEY (46_nip44.md R136). -/
  | nip44Convkey (privateKey remoteX : Bytes)
  /-- NIP44_ENCRYPT (46_nip44.md R139). -/
  | nip44Encrypt (conversationKey nonce plaintext : Bytes)
  /-- NIP44_DECRYPT (46_nip44.md R143). -/
  | nip44Decrypt (conversationKey payload : Bytes)
deriving DecidableEq, Repr

end Sys2Proof
end

