-- ==== Sys2Proof/Machine/Operands.lean ====
section
/-! DEFINITION. The operand forms: the opcode map's opcodes, operand counts and fixed lengths (30_encoding.md R54), the
walk over length-prefixed operands (R49, R50) and operand assembly (R51). -/

namespace Sys2Proof.Machine

/-- The opcode byte OPC (30_encoding.md R54). -/
def opcodeByte : Opcode → Byte
  | .nop => 0x00
  | .csrRead => 0x01
  | .csrWrite => 0x02
  | .softReset => 0x03
  | .crc16 => 0x10
  | .crcInit => 0x11
  | .crcUpdate => 0x12
  | .frameEncode => 0x20
  | .decFeed => 0x21
  | .decEos => 0x22
  | .decReset => 0x23
  | .aesCbcEnc => 0x30
  | .aesCbcDec => 0x31
  | .hmacSha256 => 0x40
  | .hkdfExtract => 0x41
  | .hkdfExpand => 0x42
  | .ecdhX => 0x50
  | .chacha20 => 0x60
  | .nip44Convkey => 0x70
  | .nip44Encrypt => 0x71
  | .nip44Decrypt => 0x72

/-- The rows of the opcode map, in its order. -/
def opcodeMap : List Opcode :=
  [.nop, .csrRead, .csrWrite, .softReset, .crc16, .crcInit, .crcUpdate, .frameEncode, .decFeed, .decEos, .decReset] ++
  [.aesCbcEnc, .aesCbcDec, .hmacSha256, .hkdfExtract, .hkdfExpand, .ecdhX, .chacha20] ++
  [.nip44Convkey, .nip44Encrypt, .nip44Decrypt]

/-- The row of an opcode byte; `none` for the reserved opcodes (30_encoding.md R55, R56). -/
def opcodeOf (b : Byte) : Option Opcode := opcodeMap.find? (fun o => opcodeByte o == b)

/-- `FIXLEN(opc, i)` for each operand i in descriptor order: `some n` for a fixed length, `none` for "var"
(30_encoding.md R54). -/
def operandLens : Opcode → List (Option Nat)
  | .nop => []
  | .csrRead => [some 2]
  | .csrWrite => [some 2, some 4]
  | .softReset => []
  | .crc16 => [none, some 4, some 4]
  | .crcInit => []
  | .crcUpdate => [none]
  | .frameEncode => [some 2, some 16, some 32, some 16, none]
  | .decFeed => [none]
  | .decEos => []
  | .decReset => []
  | .aesCbcEnc => [some 16, some 16, none]
  | .aesCbcDec => [some 16, some 16, none]
  | .hmacSha256 => [none, none]
  | .hkdfExtract => [none, none]
  | .hkdfExpand => [none, none, some 2]
  | .ecdhX => [some 32, some 32]
  | .chacha20 => [some 32, some 12, some 4, none]
  | .nip44Convkey => [some 32, some 32]
  | .nip44Encrypt => [some 32, some 32, none]
  | .nip44Decrypt => [some 32, none]

/-- `NOPS(opc)` (30_encoding.md R54). -/
def operandCount (o : Opcode) : Nat := (operandLens o).length

/-- The operand loop of `Decode` (30_encoding.md R50): `n` length-prefixed operands from the bytes that remain;
answers the operands and the bytes after the last. OPLEN_MAX comes before TRUNCATED within an operand. -/
def walkOperands (cfg : Config) : Nat → Bytes → Except CmdError (List Bytes × Bytes)
  | 0, rest => .ok ([], rest)
  | n + 1, rest =>
    if rest.length < 4 then .error .truncated
    else if cfg.maxOperandLen < (u32be rest).toNat then .error .oplenMax
    else if (rest.drop 4).length < (u32be rest).toNat then .error .truncated
    else
      match walkOperands cfg n ((rest.drop 4).drop (u32be rest).toNat) with
      | .error e => .error e
      | .ok (ops, after) => .ok ((rest.drop 4).take (u32be rest).toNat :: ops, after)

/-- Every operand with a fixed length has it (the last loop of 30_encoding.md R50). -/
def fixedLensHold : List (Option Nat) → List Bytes → Bool
  | some n :: lens, op :: ops => op.length == n && fixedLensHold lens ops
  | none :: lens, _ :: ops => fixedLensHold lens ops
  | _, _ => true

/-- Operand assembly (30_encoding.md R51): integer operands are read big-endian, byte strings pass unchanged. `none`
if the number of operands is not the opcode's, which the NOPS check has excluded (log entry 10). -/
def assembleOperands : Opcode → List Bytes → Option Instr
  | .nop, [] => some .nop
  | .csrRead, [addr] => some (.csrRead (u16be addr))
  | .csrWrite, [addr, value] => some (.csrWrite (u16be addr) (u32be value))
  | .softReset, [] => some .softReset
  | .crc16, [data, start, stop] => some (.crc16 data (u32be start) (u32be stop))
  | .crcInit, [] => some .crcInit
  | .crcUpdate, [data] => some (.crcUpdate data)
  | .frameEncode, [mt, cid, pk, iv, payload] => some (.frameEncode (u16be mt) cid pk iv payload)
  | .decFeed, [chunk] => some (.decFeed chunk)
  | .decEos, [] => some .decEos
  | .decReset, [] => some .decReset
  | .aesCbcEnc, [key, iv, pt] => some (.aesCbcEnc key iv pt)
  | .aesCbcDec, [key, iv, ct] => some (.aesCbcDec key iv ct)
  | .hmacSha256, [key, msg] => some (.hmacSha256 key msg)
  | .hkdfExtract, [salt, ikm] => some (.hkdfExtract salt ikm)
  | .hkdfExpand, [prk, info, len] => some (.hkdfExpand prk info (u16be len))
  | .ecdhX, [d, x] => some (.ecdhX d x)
  | .chacha20, [key, nonce, ctr, data] => some (.chacha20 key nonce (u32be ctr) data)
  | .nip44Convkey, [d, x] => some (.nip44Convkey d x)
  | .nip44Encrypt, [ck, nonce, pt] => some (.nip44Encrypt ck nonce pt)
  | .nip44Decrypt, [ck, payload] => some (.nip44Decrypt ck payload)
  | _, _ => none

end Sys2Proof.Machine
end

