-- ==== Sys2Proof/WellFormed.lean ====
section
/-! DEFINITION. Which commands a descriptor can carry: the fixed operand lengths of 30_encoding.md R54, and the
operand limit of 00_scope.md R7 with the 32-bit length field of 30_encoding.md R49. -/

namespace Sys2Proof

/-- A variable-length operand fits: at most MAX_OPERAND_LEN bytes, and a length that the u32 field holds. -/
def fitsVar (cfg : Config) (b : Bytes) : Bool := b.length ≤ cfg.maxOperandLen && b.length < 2 ^ 32

/-- A command whose operands have the lengths that 30_encoding.md R54 fixes, and whose variable operands fit. -/
def Instr.wellFormed (cfg : Config) : Instr → Bool
  | .nop => true
  | .csrRead _ => true
  | .csrWrite _ _ => true
  | .softReset => true
  | .crc16 data _ _ => fitsVar cfg data
  | .crcInit => true
  | .crcUpdate data => fitsVar cfg data
  | .frameEncode _ cid pk iv payload =>
      cid.length == 16 && pk.length == 32 && iv.length == 16 && fitsVar cfg payload
  | .decFeed chunk => fitsVar cfg chunk
  | .decEos => true
  | .decReset => true
  | .aesCbcEnc key iv pt => key.length == 16 && iv.length == 16 && fitsVar cfg pt
  | .aesCbcDec key iv ct => key.length == 16 && iv.length == 16 && fitsVar cfg ct
  | .hmacSha256 key msg => fitsVar cfg key && fitsVar cfg msg
  | .hkdfExtract salt ikm => fitsVar cfg salt && fitsVar cfg ikm
  | .hkdfExpand prk info _ => fitsVar cfg prk && fitsVar cfg info
  | .ecdhX d x => d.length == 32 && x.length == 32
  | .chacha20 key nonce _ data => key.length == 32 && nonce.length == 12 && fitsVar cfg data
  | .nip44Convkey d x => d.length == 32 && x.length == 32
  | .nip44Encrypt ck nonce pt => ck.length == 32 && nonce.length == 32 && fitsVar cfg pt
  | .nip44Decrypt ck payload => ck.length == 32 && fitsVar cfg payload

end Sys2Proof
end

