-- ==== Sys2Proof/Decode.lean ====
section
/-! DEFINITION. The decoder of command descriptors (30_encoding.md R48-R51, R55, R57), total on any bytes, rejecting by
the name of the error it raises; after it the encoder; and the reading of an opcode-table word. -/

namespace Sys2Proof

open Sys2Proof.Machine

/-- Integer operands assembled, an error by name where the operand list has another shape (log entry 10). -/
def decodeOperands (cfg : Config) (o : Opcode) (rest : Bytes) : Except CmdError Instr :=
  match walkOperands cfg (operandCount o) rest with
  | .error e => .error e
  | .ok (ops, after) =>
    if after ≠ [] then .error .trailing
    else if fixedLensHold (operandLens o) ops = false then .error .oplenFixed
    else
      match assembleOperands o ops with
      | some i => .ok i
      | none => .error .nopsMismatch

/-- `Decode(desc)` (30_encoding.md R50): the checks in the order written; the first that fails decides the error. -/
def decode (cfg : Config) (desc : Bytes) : Except CmdError Instr :=
  if desc.length < 4 then .error .truncated
  else
    match opcodeOf (desc.getD 0 0) with
    | none => .error .opcode
    | some o =>
      if desc.getD 1 0 ≠ 0 then .error .rsvNonzero
      else if (u16be (desc.drop 2)).toNat ≠ operandCount o then .error .nopsMismatch
      else decodeOperands cfg o (desc.drop 4)

/-- The opcode of a command. -/
def Instr.opcode : Instr → Opcode
  | .nop => .nop
  | .csrRead _ => .csrRead
  | .csrWrite _ _ => .csrWrite
  | .softReset => .softReset
  | .crc16 _ _ _ => .crc16
  | .crcInit => .crcInit
  | .crcUpdate _ => .crcUpdate
  | .frameEncode _ _ _ _ _ => .frameEncode
  | .decFeed _ => .decFeed
  | .decEos => .decEos
  | .decReset => .decReset
  | .aesCbcEnc _ _ _ => .aesCbcEnc
  | .aesCbcDec _ _ _ => .aesCbcDec
  | .hmacSha256 _ _ => .hmacSha256
  | .hkdfExtract _ _ => .hkdfExtract
  | .hkdfExpand _ _ _ => .hkdfExpand
  | .ecdhX _ _ => .ecdhX
  | .chacha20 _ _ _ _ => .chacha20
  | .nip44Convkey _ _ => .nip44Convkey
  | .nip44Encrypt _ _ _ => .nip44Encrypt
  | .nip44Decrypt _ _ => .nip44Decrypt

/-- The operands of a command as byte strings, in the order of 30_encoding.md R54 (R51: integers big-endian). -/
def Instr.operands : Instr → List Bytes
  | .nop => []
  | .csrRead addr => [be16 addr]
  | .csrWrite addr value => [be16 addr, be32 value]
  | .softReset => []
  | .crc16 data start stop => [data, be32 start, be32 stop]
  | .crcInit => []
  | .crcUpdate data => [data]
  | .frameEncode mt cid pk iv payload => [be16 mt, cid, pk, iv, payload]
  | .decFeed chunk => [chunk]
  | .decEos => []
  | .decReset => []
  | .aesCbcEnc key iv pt => [key, iv, pt]
  | .aesCbcDec key iv ct => [key, iv, ct]
  | .hmacSha256 key msg => [key, msg]
  | .hkdfExtract salt ikm => [salt, ikm]
  | .hkdfExpand prk info len => [prk, info, be16 len]
  | .ecdhX d x => [d, x]
  | .chacha20 key nonce ctr data => [key, nonce, be32 ctr, data]
  | .nip44Convkey d x => [d, x]
  | .nip44Encrypt ck nonce pt => [ck, nonce, pt]
  | .nip44Decrypt ck payload => [ck, payload]

/-- The 4-byte header: OPC, RSV = 0x00, NOPS big-endian (30_encoding.md R48). -/
def headerBytes (o : Opcode) : Bytes :=
  opcodeByte o :: 0x00 :: be16 (BitVec.ofNat 16 (operandCount o))

/-- The descriptor of a command: the header, then each operand length-prefixed (30_encoding.md R48, R49). -/
def encode (i : Instr) : Bytes := headerBytes i.opcode ++ i.operands.flatMap lengthPrefixed

/-- The operands of a descriptor of which only the first bytes are given: an operand that starts within the given
bytes is read from them, its missing bytes zero; one that starts after them has the length the opcode map fixes (no
bytes for "var") and the value zero (log entry 4, DESIGN CHOICE). -/
def fillOperands : List (Option Nat) → Bytes → Bytes
  | [], given => given
  | len :: lens, [] => lengthPrefixed (zeros (len.getD 0)) ++ fillOperands lens []
  | _ :: lens, b :: given =>
    be32 (u32be (b :: given)) ++ ((b :: given).drop 4).take (u32be (b :: given)).toNat ++
      zeros ((u32be (b :: given)).toNat - ((b :: given).drop 4).length) ++
      fillOperands lens (((b :: given).drop 4).drop (u32be (b :: given)).toNat)

/-- The bytes of `k` 32-bit words of `w`, the word at bits 31..0 first, each big-endian. -/
def wordsBytes : Nat → Nat → Bytes
  | 0, _ => []
  | k + 1, w => be32 (BitVec.ofNat 32 w) ++ wordsBytes k (w / 2 ^ 32)

/-- The descriptor that an opcode-table word of `nbits` bits stands for: the header word `hw` is bits 31..0, and the
operands that the word does not give are those of `fillOperands` (log entry 4, DESIGN CHOICE). -/
def descriptorOfWord (nbits w : Nat) : Bytes :=
  let given := (wordsBytes ((nbits + 31) / 32) (w % 2 ^ nbits)).take (max 4 (nbits / 8))
  match opcodeOf (given.getD 0 0) with
  | none => given
  | some o => given.take 4 ++ fillOperands (operandLens o) (given.drop 4)

/-- The command that the decoder reads from an opcode-table word, at this hardware's parameters. -/
def decodeTableWord (nbits w : Nat) : Option Instr :=
  match decode Config.thisHardware (descriptorOfWord nbits w) with
  | .ok i => some i
  | .error _ => none

end Sys2Proof
end

