-- ==== Sys2Proof/Machine/Ops.lean ====
section
/-! DEFINITION. The named operations over the state: field updates, the command port, the completion of a command
(30_encoding.md R52, R65), its error completion (60_exceptions.md R150), the CSRs (10_state.md R17-R24) and the resets. -/

namespace Sys2Proof.Machine

/-- `crc <- v`. -/
def State.withCrc (s : State) (v : Half) : State := { s with crc := v }

/-- `maxpay <- v`. -/
def State.withMaxpay (s : State) (v : Word) : State := { s with maxpay := v }

/-- `dstate <- d; dbuf <- buf; dlen <- len`. -/
def State.withDecoder (s : State) (d : DState) (buf : Bytes) (len : Word) : State :=
  { s with dstate := d, dbuf := buf, dlen := len }

/-- `last_status <- st; last_sub <- sub` (10_state.md R25). -/
def State.withStatus (s : State) (st sub : Byte) : State := { s with lastStatus := st, lastSub := sub }

/-- One more response descriptor returned. -/
def State.withResponse (s : State) (r : Bytes) : State := { s with responses := s.responses ++ [r] }

/-- The descriptors that remain to be executed. -/
def State.withPending (s : State) (ds : List Bytes) : State := { s with pending := ds }

/-- The next descriptor on the command port, and the state without it (20_memory.md R42: delivery order). -/
def takeCommand (s : State) : Option (Bytes × State) :=
  match s.pending with
  | [] => none
  | d :: ds => some (d, s.withPending ds)

/-- The host delivers a descriptor behind those that wait (20_memory.md R42). -/
def deliver (s : State) (d : Bytes) : State := s.withPending (s.pending ++ [d])

/-- The response descriptor: STATUS, SUB, NOUT, and each output length-prefixed (30_encoding.md R52). -/
def responseBytes (st sub : Byte) (outs : List Bytes) : Bytes :=
  st :: sub :: be16 (count16 outs.length) ++ outs.flatMap lengthPrefixed

/-- The end of every command: the status is written as its final act and the response is returned
(30_encoding.md R65, 10_state.md R25). -/
def respond (s : State) (st sub : Byte) (outs : List Bytes) : State :=
  (s.withStatus st sub).withResponse (responseBytes st sub outs)

/-- A command completes with status OK and the outputs it emitted (30_encoding.md R65). -/
def complete (s : State) (outs : List Bytes) : State := respond s statusOk 0 outs

/-- `raise E(sub)`: the output list is discarded, the status written, nothing else changes (60_exceptions.md R150).
This is the block's whole error entry: it takes no trap, saves no state and goes nowhere (R158), so there is no
return from one (R159). -/
def raise (s : State) (e : CmdError) : State := respond s e.status e.sub []

/-- The completion of a command whose rule writes no state: its outputs, or the error it raised. -/
def finish (s : State) (r : Except CmdError (List Bytes)) : State :=
  match r with
  | .ok outs => complete s outs
  | .error e => raise s e

/-- The completion of a pure command with one output. -/
def finishOne (s : State) (r : Except CmdError Bytes) : State :=
  match r with
  | .ok out => complete s [out]
  | .error e => raise s e

/-- CSR `ID` (10_state.md R18). -/
def csrId : Word := 0x4E530701

/-- CSR `STATUS` (10_state.md R19): DEC_STATE in [17:16], LAST_SUB in [15:8], LAST_STATUS in [7:0], 0 above. -/
def csrStatus (s : State) : Word := (0 : BitVec 14) ++ s.dstate.code ++ s.lastSub ++ s.lastStatus

/-- `csr[a]` (10_state.md R17-R23, 47_control.md R145), ERR_OPERAND(CSR_ADDR) from 0x0006 up (R24). -/
def csrValue (s : State) (a : Half) : Except CmdError Word :=
  if a = 0x0000 then .ok csrId
  else if a = 0x0001 then .ok (csrStatus s)
  else if a = 0x0002 then .ok (s.crc.setWidth 32)
  else if a = 0x0003 then .ok s.maxpay
  else if a = 0x0004 then .ok (length32 s.dbuf.length)
  else if a = 0x0005 then .ok s.dlen
  else .error .csrAddr

/-- The value DEC_MAXPAY takes for a written `v`: `min(v, PAYLOAD_BUF_MAX)` (10_state.md R21). -/
def cappedMaxpay (s : State) (v : Word) : Word := if v ≤ s.cfg.payloadBufMax then v else s.cfg.payloadBufMax

/-- The write of `v` to the CSR at `a` (10_state.md R18-R24, 47_control.md R146). -/
def csrStore (s : State) (a : Half) (v : Word) : Except CmdError State :=
  if a = 0x0000 ∨ a = 0x0001 ∨ a = 0x0004 ∨ a = 0x0005 then .error .csrRo
  else if a = 0x0002 then .ok (s.withCrc (v.setWidth 16))
  else if a = 0x0003 then .ok (s.withMaxpay (cappedMaxpay s v))
  else .error .csrAddr

/-- The decoder's reset: `dstate <- AWAIT_HEADER; dbuf <- ""; dlen <- 0` (41_frame_codec.md R84). -/
def resetDecoder (s : State) : State := s.withDecoder .awaitHeader [] 0

/-- Every field of 10_state.md R15 at its reset value (R31, 70_reset_and_hazards.md R169). The parameters and the port
are not fields of that record: they stay (log entry 11). -/
def resetRecord (s : State) : State :=
  (((resetDecoder s).withCrc 0xFFFF).withMaxpay s.cfg.payloadBufMax).withStatus statusOk 0

/-- Power-on reset (70_reset_and_hazards.md R168), an event from outside between two commands: the record at its reset
values, and the block "waits for the first command descriptor on its port". That the descriptors still waiting are
dropped and that the responses already returned are kept is the model's choice: the spec is silent on where either is held
(log entry 18, DESIGN CHOICE). -/
def powerOnReset (s : State) : State := (resetRecord s).withPending []

end Sys2Proof.Machine
end

