-- ==== Sys2Proof/Machine/Aes.lean ====
section
/-! DEFINITION. U3, AES-128-CBC with PKCS7 padding (42_aes_cbc.md R87-R102). A state `s[r][c]` is held as the 16 bytes of a
block, `s[r][c]` at index r + 4c (R87), and a key-schedule word `w[i]` as 4 bytes. -/

namespace Sys2Proof.Machine

/-- `s[r][c]` (42_aes_cbc.md R87). -/
def cell (s : Bytes) (r c : Nat) : Byte := s.getD (r + 4 * c) 0

/-- The state with `s[r][c] = f r c`. -/
def cells (f : Nat → Nat → Byte) : Bytes := (List.range 16).map (fun k => f (k % 4) (k / 4))

/-- `xtime(b) = b • 0x02` (42_aes_cbc.md R88). -/
def xtime (b : Byte) : Byte := if b.getLsbD 7 then (b <<< 1) ^^^ 0x1B else b <<< 1

/-- The exclusive OR of `xtime^i(a)` over the set bits of the low n bits of b. -/
def gmulBits : Nat → Byte → Byte → Byte
  | 0, _, _ => 0
  | n + 1, a, b => (if b.getLsbD 0 then a else 0) ^^^ gmulBits n (xtime a) (b >>> 1)

/-- `a • b` in GF(2^8) (42_aes_cbc.md R88). -/
def gmul (a b : Byte) : Byte := gmulBits 8 a b

/-- The table of 42_aes_cbc.md R89, one row of 16 bytes a number, column 0 the most significant byte. -/
def sboxRows : List Nat :=
  [0x637c777bf26b6fc53001672bfed7ab76, 0xca82c97dfa5947f0add4a2af9ca472c0,
   0xb7fd9326363ff7cc34a5e5f171d83115, 0x04c723c31896059a071280e2eb27b275] ++
  [0x09832c1a1b6e5aa0523bd6b329e32f84, 0x53d100ed20fcb15b6acbbe394a4c58cf,
   0xd0efaafb434d338545f9027f503c9fa8, 0x51a3408f929d38f5bcb6da2110fff3d2] ++
  [0xcd0c13ec5f974417c4a77e3d645d1973, 0x60814fdc222a908846eeb814de5e0bdb,
   0xe0323a0a4906245cc2d3ac629195e479, 0xe7c8376d8dd54ea96c56f4ea657aae08] ++
  [0xba78252e1ca6b4c6e8dd741f4bbd8b8a, 0x703eb5664803f60e613557b986c11d9e,
   0xe1f8981169d98e949b1e87e9ce5528df, 0x8ca1890dbfe6426841992d0fb054bb16]

/-- The table of 42_aes_cbc.md R90, laid out as `sboxRows`. -/
def invSboxRows : List Nat :=
  [0x52096ad53036a538bf40a39e81f3d7fb, 0x7ce339829b2fff87348e4344c4dee9cb,
   0x547b9432a6c2233dee4c950b42fac34e, 0x082ea16628d924b2765ba2496d8bd125] ++
  [0x72f8f66486689816d4a45ccc5d65b692, 0x6c704850fdedb9da5e154657a78d9d84,
   0x90d8ab008cbcd30af7e45805b8b34506, 0xd02c1e8fca3f0f02c1afbd0301138a6b] ++
  [0x3a9111414f67dcea97f2cfcef0b4e673, 0x96ac7422e7ad3585e2f937e81c75df6e,
   0x47f11a711d29c5896fb7620eaa18be1b, 0xfc563e4bc6d279209adbc0fe78cd5af4] ++
  [0x1fdda8338807c731b11210592780ec5f, 0x60517fa919b54a0d2de57a9f93c99cef,
   0xa0e03b4dae2af5b0c8ebbb3c83539961, 0x172b047eba77d626e169146355210c7d]

/-- The entry of a table of 16 rows for a byte: the row is its high nibble, the column its low nibble. -/
def tableEntry (rows : List Nat) (b : Byte) : Byte :=
  BitVec.ofNat 8 (rows.getD (b.toNat / 16) 0 / 256 ^ (15 - b.toNat % 16))

/-- `SBOX[b]` (42_aes_cbc.md R89). -/
def sbox (b : Byte) : Byte := tableEntry sboxRows b

/-- `INV_SBOX[b]` (42_aes_cbc.md R90). -/
def invSbox (b : Byte) : Byte := tableEntry invSboxRows b

/-- SubBytes (42_aes_cbc.md R91). -/
def subBytes (s : Bytes) : Bytes := cells (fun r c => sbox (cell s r c))

/-- InvSubBytes (42_aes_cbc.md R91). -/
def invSubBytes (s : Bytes) : Bytes := cells (fun r c => invSbox (cell s r c))

/-- ShiftRows (42_aes_cbc.md R92). -/
def shiftRows (s : Bytes) : Bytes := cells (fun r c => cell s r ((c + r) % 4))

/-- InvShiftRows (42_aes_cbc.md R92): `s'[r][(c + r) mod 4] = s[r][c]`. -/
def invShiftRows (s : Bytes) : Bytes := cells (fun r c => cell s r ((c + 4 - r) % 4))

/-- The dot product, in GF(2^8), of four coefficients with the column c of a state. -/
def mixCell (s : Bytes) (c : Nat) (k0 k1 k2 k3 : Byte) : Byte :=
  gmul k0 (cell s 0 c) ^^^ gmul k1 (cell s 1 c) ^^^ gmul k2 (cell s 2 c) ^^^ gmul k3 (cell s 3 c)

/-- MixColumns (42_aes_cbc.md R93). -/
def mixColumns (s : Bytes) : Bytes :=
  cells (fun r c =>
    match r with
    | 0 => mixCell s c 0x02 0x03 0x01 0x01
    | 1 => mixCell s c 0x01 0x02 0x03 0x01
    | 2 => mixCell s c 0x01 0x01 0x02 0x03
    | _ => mixCell s c 0x03 0x01 0x01 0x02)

/-- InvMixColumns (42_aes_cbc.md R93). -/
def invMixColumns (s : Bytes) : Bytes :=
  cells (fun r c =>
    match r with
    | 0 => mixCell s c 0x0e 0x0b 0x0d 0x09
    | 1 => mixCell s c 0x09 0x0e 0x0b 0x0d
    | 2 => mixCell s c 0x0d 0x09 0x0e 0x0b
    | _ => mixCell s c 0x0b 0x0d 0x09 0x0e)

/-- AddRoundKey(rnd) (42_aes_cbc.md R94). -/
def addRoundKey (w : List Bytes) (rnd : Nat) (s : Bytes) : Bytes :=
  cells (fun r c => cell s r c ^^^ (w.getD (4 * rnd + c) []).getD r 0)

/-- `rc_j` is `rcon (j - 1)` (42_aes_cbc.md R95): `rc_1 = 0x01`, `rc_j = xtime(rc_{j-1})`. -/
def rcon : Nat → Byte
  | 0 => 0x01
  | j + 1 => xtime (rcon j)

/-- RotWord (42_aes_cbc.md R95). -/
def rotWord (t : Bytes) : Bytes := [t.getD 1 0, t.getD 2 0, t.getD 3 0, t.getD 0 0]

/-- SubWord (42_aes_cbc.md R95). -/
def subWord (t : Bytes) : Bytes := [sbox (t.getD 0 0), sbox (t.getD 1 0), sbox (t.getD 2 0), sbox (t.getD 3 0)]

/-- `w[i]` for i ≥ 4, from `w[i-1]` and `w[i-4]` (42_aes_cbc.md R95). -/
def nextKeyWord (i : Nat) (prev back4 : Bytes) : Bytes :=
  if i % 4 = 0 then xorBytes back4 (xorBytes (subWord (rotWord prev)) [rcon (i / 4 - 1), 0, 0, 0])
  else xorBytes back4 prev

/-- The words from `w[i]` on, `n` of them, appended to the words so far. -/
def expandKeyWords : Nat → Nat → List Bytes → List Bytes
  | 0, _, w => w
  | n + 1, i, w => expandKeyWords n (i + 1) (w ++ [nextKeyWord i (w.getD (i - 1) []) (w.getD (i - 4) [])])

/-- KeyExpansion: the 44 words `w[0..43]` (42_aes_cbc.md R95). -/
def keyExpansion (key : Bytes) : List Bytes :=
  expandKeyWords 40 4 [slice key 0 4, slice key 4 8, slice key 8 12, slice key 12 16]

/-- A middle round of the cipher (42_aes_cbc.md R96). -/
def aesRound (w : List Bytes) (s : Bytes) (rnd : Nat) : Bytes :=
  addRoundKey w rnd (mixColumns (shiftRows (subBytes s)))

/-- `AES_E(K, in)` (42_aes_cbc.md R96). -/
def aesEncrypt (key block : Bytes) : Bytes :=
  let w := keyExpansion key
  let s := [1, 2, 3, 4, 5, 6, 7, 8, 9].foldl (aesRound w) (addRoundKey w 0 block)
  addRoundKey w 10 (shiftRows (subBytes s))

/-- A middle round of the inverse cipher (42_aes_cbc.md R97). -/
def aesInvRound (w : List Bytes) (s : Bytes) (rnd : Nat) : Bytes :=
  invMixColumns (addRoundKey w rnd (invSubBytes (invShiftRows s)))

/-- `AES_D(K, in)` (42_aes_cbc.md R97). -/
def aesDecrypt (key block : Bytes) : Bytes :=
  let w := keyExpansion key
  let s := [9, 8, 7, 6, 5, 4, 3, 2, 1].foldl (aesInvRound w) (addRoundKey w 10 block)
  addRoundKey w 0 (invSubBytes (invShiftRows s))

/-- The pad length `16 − (len(P) mod 16)` (42_aes_cbc.md R98). -/
def padLength (p : Bytes) : Nat := 16 - p.length % 16

/-- The padded message `P ‖ rep(p, p)` (42_aes_cbc.md R98). -/
def pkcs7Pad (p : Bytes) : Bytes := p ++ rep (BitVec.ofNat 8 (padLength p)) (padLength p)

/-- The 16-byte blocks of a message. -/
def aesBlocks (m : Bytes) : List Bytes := chunksOf 16 (m.length / 16) m

/-- The loop of CBC_ENC (42_aes_cbc.md R99). -/
def cbcEncBlocks (key : Bytes) : Bytes → List Bytes → Bytes
  | _, [] => []
  | prev, m :: ms => aesEncrypt key (xorBytes m prev) ++ cbcEncBlocks key (aesEncrypt key (xorBytes m prev)) ms

/-- `CBC_ENC(K, IV, P)` (42_aes_cbc.md R99). -/
def cbcEnc (key iv plaintext : Bytes) : Bytes := cbcEncBlocks key iv (aesBlocks (pkcs7Pad plaintext))

/-- The loop of CBC_DEC (42_aes_cbc.md R101). -/
def cbcDecBlocks (key : Bytes) : Bytes → List Bytes → Bytes
  | _, [] => []
  | prev, c :: cs => xorBytes (aesDecrypt key c) prev ++ cbcDecBlocks key c cs

/-- The padding checks of CBC_DEC on the decrypted message, in the order written (42_aes_cbc.md R101). -/
def pkcs7Unpad (m : Bytes) : Except CmdError Bytes :=
  let p := (m.getD (m.length - 1) 0).toNat
  if p < 1 ∨ 16 < p then .error .padValue
  else if slice m (m.length - p) m.length ≠ rep (BitVec.ofNat 8 p) p then .error .padBytes
  else .ok (m.take (m.length - p))

/-- `CBC_DEC(K, IV, C)` (42_aes_cbc.md R101). -/
def cbcDec (key iv ciphertext : Bytes) : Except CmdError Bytes :=
  if ciphertext.length = 0 ∨ ciphertext.length % 16 ≠ 0 then .error .ctLen
  else pkcs7Unpad (cbcDecBlocks key iv (aesBlocks ciphertext))

/-- AES_CBC_ENC (42_aes_cbc.md R100). -/
def execAesCbcEnc (key iv plaintext : Bytes) (s : State) : Host.Outcome State Fault Refusal :=
  .next (complete s [cbcEnc key iv plaintext])

/-- AES_CBC_DEC (42_aes_cbc.md R102). -/
def execAesCbcDec (key iv ciphertext : Bytes) (s : State) : Host.Outcome State Fault Refusal :=
  .next (finishOne s (cbcDec key iv ciphertext))

end Sys2Proof.Machine
end

