-- ==== Sys2Proof/Machine/Control.lean ====
section
/-! DEFINITION. U0, the control commands (47_control.md R144-R147). -/

namespace Sys2Proof.Machine

/-- NOP (47_control.md R144): status OK, and nothing else. -/
def execNop (s : State) : Host.Outcome State Fault Refusal := .next (complete s [])

/-- CSR_READ (47_control.md R145): the value is read before the command's own status write. -/
def execCsrRead (addr : Half) (s : State) : Host.Outcome State Fault Refusal :=
  .next (finishOne s ((csrValue s addr).map be32))

/-- CSR_WRITE (47_control.md R146). -/
def execCsrWrite (addr : Half) (value : Word) (s : State) : Host.Outcome State Fault Refusal :=
  match csrStore s addr value with
  | .ok s' => .next (complete s' [])
  | .error e => .next (raise s e)

/-- SOFT_RESET (47_control.md R147). -/
def execSoftReset (s : State) : Host.Outcome State Fault Refusal := .next (complete (resetRecord s) [])

end Sys2Proof.Machine
end

