-- ==== Sys2Proof/Machine/Crc.lean ====
section
/-! DEFINITION. U1, the CRC-16 generator (40_crc16.md R66-R70). -/

namespace Sys2Proof.Machine

/-- One of the eight shifts of `crc_step` (40_crc16.md R66). -/
def crcShift (c : Half) : Half := if c.getLsbD 15 then (c <<< 1) ^^^ 0x1021 else c <<< 1

/-- `crcShift` n times. -/
def crcShifts : Nat → Half → Half
  | 0, c => c
  | n + 1, c => crcShifts n (crcShift c)

/-- `crc_step(c, b)` (40_crc16.md R66). -/
def crcStep (c : Half) (b : Byte) : Half := crcShifts 8 (c ^^^ (b.setWidth 16 <<< 8))

/-- `crc_step` folded over a byte string from the register `c`. -/
def crcFold (c : Half) (data : Bytes) : Half := data.foldl crcStep c

/-- `crc16(bytes, start, end)` (40_crc16.md R67), the half-open range, no final XOR. -/
def crc16 (b : Bytes) (start stop : Nat) : Half := crcFold 0xFFFF (slice b start stop)

/-- CRC16 (40_crc16.md R68). -/
def execCrc16 (data : Bytes) (start stop : Word) (s : State) : Host.Outcome State Fault Refusal :=
  .next (finishOne s
    (if start.toNat ≤ stop.toNat ∧ stop.toNat ≤ data.length then .ok (be16 (crc16 data start.toNat stop.toNat))
     else .error .range))

/-- CRC_INIT (40_crc16.md R69). -/
def execCrcInit (s : State) : Host.Outcome State Fault Refusal := .next (complete (s.withCrc 0xFFFF) [])

/-- CRC_UPDATE (40_crc16.md R70). -/
def execCrcUpdate (data : Bytes) (s : State) : Host.Outcome State Fault Refusal :=
  .next (complete (s.withCrc (crcFold s.crc data)) [be16 (crcFold s.crc data)])

end Sys2Proof.Machine
end

