-- ==== Sys2Proof/Machine/Frame.lean ====
section
/-! DEFINITION. U2, the frame codec: the request encoder (41_frame_codec.md R72), the streaming response decoder
(R73-R80), DEC_EOS and DEC_RESET (R83, R84), the fields of a frame (R85, 30_encoding.md R58-R62). -/

namespace Sys2Proof.Machine

/-- The request frame before its checksum (30_encoding.md R58, 41_frame_codec.md R72). -/
def requestBody (messageType : Half) (correlationId targetPubkey iv payload : Bytes) : Bytes :=
  be16 messageType ++ correlationId ++ targetPubkey ++ iv ++ be32 (length32 payload.length) ++ payload

/-- A frame: its body and the CRC over every byte of it (30_encoding.md R58, R59). -/
def withChecksum (body : Bytes) : Bytes := body ++ be16 (crc16 body 0 body.length)

/-- FRAME_ENCODE (41_frame_codec.md R72). -/
def execFrameEncode (messageType : Half) (correlationId targetPubkey iv payload : Bytes) (s : State) :
    Host.Outcome State Fault Refusal :=
  .next (complete s [withChecksum (requestBody messageType correlationId targetPubkey iv payload)])

/-- The payloadLength field of a response header (30_encoding.md R59). -/
def headerPayloadLength (frame : Bytes) : Word := u32be (slice frame 68 72)

/-- `LengthFault()` (41_frame_codec.md R80): a LENGTH event with the 72-byte header, and the sticky state FAULTED. -/
def lengthFault (s : State) : State × List Bytes :=
  (s.withDecoder .faulted [] 0, [eventLength ++ s.dbuf])

/-- `HeaderComplete()` (41_frame_codec.md R76); a payloadLength equal to `maxpay` is accepted. -/
def headerComplete (s : State) : State × List Bytes :=
  if s.maxpay < headerPayloadLength s.dbuf then lengthFault s
  else (s.withDecoder .awaitPayload s.dbuf (headerPayloadLength s.dbuf), [])

/-- `HeaderByte(b)` (41_frame_codec.md R75). -/
def headerByte (s : State) (b : Byte) : State × List Bytes :=
  let s' := s.withDecoder s.dstate (s.dbuf ++ [b]) s.dlen
  if s'.dbuf.length = 72 then headerComplete s' else (s', [])

/-- The event of a completed frame of payloadLength `len` (41_frame_codec.md R77-R79): FRAME where the checksum
agrees, and for payloadLength 0 whatever it is; else INTEGRITY with the CRC computed. -/
def frameEvent (frame : Bytes) (len : Nat) : Bytes :=
  if len = 0 then eventFrame ++ frame
  else if crc16 frame 0 (72 + len) = u16be (slice frame (72 + len) (74 + len)) then eventFrame ++ frame
  else eventIntegrity ++ frame ++ be16 (crc16 frame 0 (72 + len))

/-- `FrameComplete()` (41_frame_codec.md R77). -/
def frameComplete (s : State) : State × List Bytes :=
  (s.withDecoder .awaitHeader [] 0, [frameEvent s.dbuf s.dlen.toNat])

/-- `PayloadByte(b)` (41_frame_codec.md R77). -/
def payloadByte (s : State) (b : Byte) : State × List Bytes :=
  let s' := s.withDecoder s.dstate (s.dbuf ++ [b]) s.dlen
  if s'.dbuf.length = 74 + s'.dlen.toNat then frameComplete s' else (s', [])

/-- One byte of the loop of DEC_FEED (41_frame_codec.md R74). -/
def feedByte (s : State) (b : Byte) : State × List Bytes :=
  if s.dstate = .awaitHeader then headerByte s b else payloadByte s b

/-- The loop of DEC_FEED (41_frame_codec.md R74): the events in the order of the bytes that completed them; a
FAULTED decoder stops it, and the rest of the chunk is discarded. -/
def feedBytes : State → Bytes → State × List Bytes
  | s, [] => (s, [])
  | s, b :: bs =>
    if (feedByte s b).1.dstate = .faulted then feedByte s b
    else ((feedBytes (feedByte s b).1 bs).1, (feedByte s b).2 ++ (feedBytes (feedByte s b).1 bs).2)

/-- DEC_FEED (41_frame_codec.md R74). -/
def execDecFeed (chunk : Bytes) (s : State) : Host.Outcome State Fault Refusal :=
  if s.dstate = .closed then .next (raise s .alreadyClosed)
  else if s.dstate = .faulted then .next (raise s .faulted)
  else .next (complete (feedBytes s chunk).1 (feedBytes s chunk).2)

/-- What DEC_EOS raises (41_frame_codec.md R83). -/
def eosError (s : State) : CmdError :=
  if s.dstate = .closed then .alreadyClosed
  else if s.dstate = .faulted then .wasFaulted
  else if 0 < s.dbuf.length then .partialFrame
  else .clean

/-- DEC_EOS (41_frame_codec.md R83), the one command that writes state and then raises. -/
def execDecEos (s : State) : Host.Outcome State Fault Refusal :=
  .next (raise (s.withDecoder .closed [] 0) (eosError s))

/-- DEC_RESET (41_frame_codec.md R84). -/
def execDecReset (s : State) : Host.Outcome State Fault Refusal := .next (complete (resetDecoder s) [])

/-- The fields of a response frame (30_encoding.md R59, 41_frame_codec.md R85). -/
structure ResponseFrame where
  messageType : Half
  correlationId : Bytes
  resultCode : Half
  sourcePubkey : Bytes
  iv : Bytes
  payload : Bytes
deriving DecidableEq, Repr

/-- The fixed field lengths of 30_encoding.md R59, and a payload whose length fits its u32 field. -/
def ResponseFrame.wellFormed (f : ResponseFrame) : Bool :=
  f.correlationId.length == 16 && f.sourcePubkey.length == 32 && f.iv.length == 16 && f.payload.length < 2 ^ 32

/-- The 72-byte response header and the payload (30_encoding.md R59). -/
def responseBody (f : ResponseFrame) : Bytes :=
  be16 f.messageType ++ f.correlationId ++ be16 f.resultCode ++ f.sourcePubkey ++ f.iv ++
    be32 (length32 f.payload.length) ++ f.payload

/-- A response frame with a correct checksum: the response-shaped encoder of 41_frame_codec.md R82 (the device's
side; the block has no command for it). -/
def responseFrame (f : ResponseFrame) : Bytes := withChecksum (responseBody f)

/-- The fields of the frame that a FRAME event carries (41_frame_codec.md R85). -/
def parseFrameEvent (ev : Bytes) : ResponseFrame :=
  let f := ev.drop 2
  { messageType := u16be (slice f 0 2)
    correlationId := slice f 2 18
    resultCode := u16be (slice f 18 20)
    sourcePubkey := slice f 20 52
    iv := slice f 52 68
    payload := slice f 72 (72 + (headerPayloadLength f).toNat) }

/-- The checksum that a FRAME event carries (41_frame_codec.md R85). -/
def frameEventChecksum (ev : Bytes) : Half :=
  let f := ev.drop 2
  u16be (slice f (72 + (headerPayloadLength f).toNat) (74 + (headerPayloadLength f).toNat))

/-- The assigned message types (30_encoding.md R60). The block interprets none of them. -/
inductive MessageType where
  | ping | nostrGetPublicKey | nostrSignEvent | nostrGetRelays
  | nostrNip04Encrypt | nostrNip04Decrypt | nostrNip44Encrypt | nostrNip44Decrypt
  | echo | updateKey | removeKey | getTempPubkey
deriving DecidableEq, Repr

/-- The values of 30_encoding.md R60. -/
def messageTypeCode : MessageType → Half
  | .ping => 0
  | .nostrGetPublicKey => 1
  | .nostrSignEvent => 2
  | .nostrGetRelays => 3
  | .nostrNip04Encrypt => 4
  | .nostrNip04Decrypt => 5
  | .nostrNip44Encrypt => 6
  | .nostrNip44Decrypt => 7
  | .echo => 11
  | .updateKey => 12
  | .removeKey => 13
  | .getTempPubkey => 14

/-- The assigned result codes of the device (30_encoding.md R61). The block interprets none of them (60_exceptions.md R154). -/
inductive ResultCode where
  | fail | ok | keyNotFound | contentNotAllowEmpty | contentIllegal
deriving DecidableEq, Repr

/-- The values of 30_encoding.md R61. -/
def resultCodeValue : ResultCode → Half
  | .fail => 0
  | .ok => 1
  | .keyNotFound => 101
  | .contentNotAllowEmpty => 102
  | .contentIllegal => 103

/-- The sentinel public key (30_encoding.md R62). -/
def sentinelPubkey : Bytes := zeros 32

end Sys2Proof.Machine
end

