-- ==== Sys2Proof/Machine/ChaCha.lean ====
section
/-! DEFINITION. U4, the ChaCha20 stream cipher core (45_chacha20.md R123-R128). The 16 words of a state stand in a list. -/

namespace Sys2Proof.Machine

/-- The quarter round on four words (45_chacha20.md R123). -/
def quarterWords (a b c d : Word) : Word × Word × Word × Word :=
  let a1 := a + b
  let d1 := rotl32 (d ^^^ a1) 16
  let c1 := c + d1
  let b1 := rotl32 (b ^^^ c1) 12
  let a2 := a1 + b1
  let d2 := rotl32 (d1 ^^^ a2) 8
  let c2 := c1 + d2
  let b2 := rotl32 (b1 ^^^ c2) 7
  (a2, b2, c2, d2)

/-- `QR(wi, wj, wk, wl)` on a state (45_chacha20.md R123, R125). -/
def quarterRound (i j k l : Nat) (w : List Word) : List Word :=
  let q := quarterWords (w.getD i 0) (w.getD j 0) (w.getD k 0) (w.getD l 0)
  (((w.set i q.1).set j q.2.1).set k q.2.2.1).set l q.2.2.2

/-- The constants, ASCII "expand 32-byte k" (45_chacha20.md R124). -/
def chachaConstants : List Word := [0x61707865, 0x3320646E, 0x79622D32, 0x6B206574]

/-- The initial state (45_chacha20.md R124): the words taken from bytes are little-endian. -/
def chachaInit (key : Bytes) (ctr : Word) (nonce : Bytes) : List Word :=
  chachaConstants ++ (chunksOf 4 8 key).map u32le ++ [ctr] ++ (chunksOf 4 3 nonce).map u32le

/-- A column round and a diagonal round (45_chacha20.md R125). -/
def chachaDoubleRound (w : List Word) : List Word :=
  let w := quarterRound 2 6 10 14 (quarterRound 1 5 9 13 (quarterRound 0 4 8 12 w))
  let w := quarterRound 0 5 10 15 (quarterRound 3 7 11 15 w)
  quarterRound 3 4 9 14 (quarterRound 2 7 8 13 (quarterRound 1 6 11 12 w))

/-- `n` double rounds. -/
def chachaRounds : Nat → List Word → List Word
  | 0, w => w
  | n + 1, w => chachaRounds n (chachaDoubleRound w)

/-- `CHACHA_BLOCK(k, ctr, nn)` (45_chacha20.md R125). -/
def chachaBlock (key : Bytes) (ctr : Word) (nonce : Bytes) : Bytes :=
  let s := chachaInit key ctr nonce
  (List.zipWith (· + ·) (chachaRounds 10 s) s).flatMap le32

/-- The loop of CHACHA20: each piece of data with the keystream block of its counter, cut to the piece's length
(45_chacha20.md R126). -/
def chachaPieces (key nonce : Bytes) : Nat → List Bytes → Bytes
  | _, [] => []
  | ctr, d :: ds => xorBytes d (chachaBlock key (BitVec.ofNat 32 ctr) nonce) ++ chachaPieces key nonce (ctr + 1) ds

/-- The number of keystream blocks, `⌈len(data) / 64⌉` (45_chacha20.md R126). -/
def chachaBlockCount (data : Bytes) : Nat := (data.length + 63) / 64

/-- `CHACHA20(k, nn, ctr, data)` (45_chacha20.md R126, R127). -/
def chacha20 (key nonce : Bytes) (ctr : Word) (data : Bytes) : Except CmdError Bytes :=
  if 0 < chachaBlockCount data ∧ 0xFFFFFFFF < ctr.toNat + chachaBlockCount data - 1 then .error .chachaCounter
  else .ok (chachaPieces key nonce ctr.toNat (chunksOf 64 (chachaBlockCount data) data))

/-- CHACHA20 (45_chacha20.md R128). -/
def execChacha20 (key nonce : Bytes) (counter : Word) (data : Bytes) (s : State) : Host.Outcome State Fault Refusal :=
  .next (finishOne s (chacha20 key nonce counter data))

end Sys2Proof.Machine
end

