-- ==== Sys2Proof/Machine/Ecdh.lean ====
section
/-! DEFINITION. U5, ECDH key agreement on secp256k1 (44_ecdh_secp256k1.md R114-R121). Field elements are natural numbers
below p. -/

namespace Sys2Proof.Machine

/-- The field prime p (44_ecdh_secp256k1.md R114). -/
def curveP : Nat := 0xFFFFFFFFFFFFFFFFFFFFFFFFFFFFFFFFFFFFFFFFFFFFFFFFFFFFFFFEFFFFFC2F

/-- The order n of G (44_ecdh_secp256k1.md R114). -/
def curveN : Nat := 0xFFFFFFFFFFFFFFFFFFFFFFFFFFFFFFFEBAAEDCE6AF48A03BBFD25E8CD0364141

/-- G.x (44_ecdh_secp256k1.md R114). -/
def curveGx : Nat := 0x79BE667EF9DCBBAC55A06295CE870B07029BFCDB2DCE28D959F2815B16F81798

/-- G.y (44_ecdh_secp256k1.md R114). -/
def curveGy : Nat := 0x483ADA7726A3C4655DA4FBFC0E1108A8FD17B448A68554199C47D08FFB10D4B8

/-- Square and multiply: `acc · b^e mod p` for an exponent e of at most n bits. -/
def powModBits : Nat → Nat → Nat → Nat → Nat
  | 0, _, _, acc => acc
  | n + 1, b, e, acc => powModBits n (b * b % curveP) (e / 2) (if e % 2 = 1 then acc * b % curveP else acc)

/-- `b^e mod p`. -/
def powMod (b e : Nat) : Nat := powModBits (bitlen e) (b % curveP) e 1

/-- `a + b` in the field. -/
def fieldAdd (a b : Nat) : Nat := (a + b) % curveP

/-- `a − b` in the field. -/
def fieldSub (a b : Nat) : Nat := (a + (curveP - b % curveP)) % curveP

/-- `a · b` in the field. -/
def fieldMul (a b : Nat) : Nat := a * b % curveP

/-- `u / v = u · v^(p−2)` in the field, for v ≠ 0 (44_ecdh_secp256k1.md R115). -/
def fieldDiv (u v : Nat) : Nat := fieldMul u (powMod v (curveP - 2))

/-- A point: O, or a pair of field elements (44_ecdh_secp256k1.md R115). -/
inductive Point where
  | infinity
  | affine (x y : Nat)
deriving DecidableEq, Repr

/-- The point (x3, y3) of a chord or tangent of slope `lam` (44_ecdh_secp256k1.md R116). -/
def chordPoint (lam x1 y1 x2 : Nat) : Point :=
  let x3 := fieldSub (fieldSub (fieldMul lam lam) x1) x2
  .affine x3 (fieldSub (fieldMul lam (fieldSub x1 x3)) y1)

/-- `A + B` (44_ecdh_secp256k1.md R116). -/
def pointAdd : Point → Point → Point
  | a, .infinity => a
  | .infinity, b => b
  | .affine x1 y1, .affine x2 y2 =>
    if x1 = x2 ∧ fieldAdd y1 y2 = 0 then .infinity
    else if x1 = x2 then chordPoint (fieldDiv (3 * x1 * x1 % curveP) (2 * y1 % curveP)) x1 y1 x2
    else chordPoint (fieldDiv (fieldSub y2 y1) (fieldSub x2 x1)) x1 y1 x2

/-- `−P` (44_ecdh_secp256k1.md R115). -/
def pointNeg : Point → Point
  | .infinity => .infinity
  | .affine x y => .affine x (fieldSub 0 y)

/-- The double-and-add loop of 44_ecdh_secp256k1.md R117, for a d of at most n bits: `R <- O; A <- P; while d > 0`. -/
def scalarMulBits : Nat → Nat → Point → Point → Point
  | 0, _, r, _ => r
  | n + 1, d, r, a =>
    if d = 0 then r
    else scalarMulBits n (d / 2) (if d % 2 = 1 then pointAdd r a else r) (pointAdd a a)

/-- `d·P` (44_ecdh_secp256k1.md R117). -/
def scalarMul (d : Nat) (p : Point) : Point := scalarMulBits (bitlen d) d .infinity p

/-- `lift_x(x)`: the point with even y (44_ecdh_secp256k1.md R118). -/
def liftX (x : Nat) : Except CmdError Point :=
  if curveP ≤ x then .error .point
  else
    let c := (x * x * x + 7) % curveP
    let y := powMod c ((curveP + 1) / 4)
    if y * y % curveP ≠ c then .error .point
    else .ok (.affine x (if y % 2 = 0 then y else curveP - y))

/-- `be256` of the x-coordinate of a point; a free value for O, which R120 derives is never reached (log entry 9). -/
def pointX : Point → Bytes
  | .affine x _ => beNat 32 x
  | .infinity => beNat 32 Config.infinityX.toNat

/-- `ECDH(privateKey, remoteX)` (44_ecdh_secp256k1.md R119, R120): the scalar is checked first. -/
def ecdh (privateKey remoteX : Bytes) : Except CmdError Bytes :=
  let d := intBe privateKey
  if d = 0 ∨ curveN ≤ d then .error .scalar
  else
    match liftX (intBe remoteX) with
    | .error e => .error e
    | .ok p => .ok (pointX (scalarMul d p))

/-- ECDH_X (44_ecdh_secp256k1.md R121). -/
def execEcdhX (privateKey remoteX : Bytes) (s : State) : Host.Outcome State Fault Refusal :=
  .next (finishOne s (ecdh privateKey remoteX))

end Sys2Proof.Machine
end

