-- ==== Sys2Proof/Machine/Hash.lean ====
section
/-! DEFINITION. U6 and U7: SHA-256, HMAC-SHA256 and HKDF-SHA256 (43_sha256_hmac_hkdf.md R103-R113). -/

namespace Sys2Proof.Machine

/-- Ch (43_sha256_hmac_hkdf.md R103). -/
def shaCh (x y z : Word) : Word := (x &&& y) ^^^ (~~~x &&& z)

/-- Maj (43_sha256_hmac_hkdf.md R103). -/
def shaMaj (x y z : Word) : Word := (x &&& y) ^^^ (x &&& z) ^^^ (y &&& z)

/-- Σ0 (43_sha256_hmac_hkdf.md R103). -/
def bigSigma0 (x : Word) : Word := rotr32 x 2 ^^^ rotr32 x 13 ^^^ rotr32 x 22

/-- Σ1 (43_sha256_hmac_hkdf.md R103). -/
def bigSigma1 (x : Word) : Word := rotr32 x 6 ^^^ rotr32 x 11 ^^^ rotr32 x 25

/-- σ0 (43_sha256_hmac_hkdf.md R103). -/
def smallSigma0 (x : Word) : Word := rotr32 x 7 ^^^ rotr32 x 18 ^^^ (x >>> 3)

/-- σ1 (43_sha256_hmac_hkdf.md R103). -/
def smallSigma1 (x : Word) : Word := rotr32 x 17 ^^^ rotr32 x 19 ^^^ (x >>> 10)

/-- The round constants K_0 … K_63 (43_sha256_hmac_hkdf.md R104). -/
def shaK : List Word :=
  [0x428a2f98, 0x71374491, 0xb5c0fbcf, 0xe9b5dba5, 0x3956c25b, 0x59f111f1, 0x923f82a4, 0xab1c5ed5] ++
  [0xd807aa98, 0x12835b01, 0x243185be, 0x550c7dc3, 0x72be5d74, 0x80deb1fe, 0x9bdc06a7, 0xc19bf174] ++
  [0xe49b69c1, 0xefbe4786, 0x0fc19dc6, 0x240ca1cc, 0x2de92c6f, 0x4a7484aa, 0x5cb0a9dc, 0x76f988da] ++
  [0x983e5152, 0xa831c66d, 0xb00327c8, 0xbf597fc7, 0xc6e00bf3, 0xd5a79147, 0x06ca6351, 0x14292967] ++
  [0x27b70a85, 0x2e1b2138, 0x4d2c6dfc, 0x53380d13, 0x650a7354, 0x766a0abb, 0x81c2c92e, 0x92722c85] ++
  [0xa2bfe8a1, 0xa81a664b, 0xc24b8b70, 0xc76c51a3, 0xd192e819, 0xd6990624, 0xf40e3585, 0x106aa070] ++
  [0x19a4c116, 0x1e376c08, 0x2748774c, 0x34b0bcb5, 0x391c0cb3, 0x4ed8aa4a, 0x5b9cca4f, 0x682e6ff3] ++
  [0x748f82ee, 0x78a5636f, 0x84c87814, 0x8cc70208, 0x90befffa, 0xa4506ceb, 0xbef9a3f7, 0xc67178f2]

/-- The eight words (a, …, h), or (H0, …, H7), of 43_sha256_hmac_hkdf.md R107. -/
structure HashWords where
  a : Word
  b : Word
  c : Word
  d : Word
  e : Word
  f : Word
  g : Word
  h : Word
deriving DecidableEq, Repr

/-- The initial hash value (43_sha256_hmac_hkdf.md R105). -/
def shaInit : HashWords :=
  { a := 0x6a09e667, b := 0xbb67ae85, c := 0x3c6ef372, d := 0xa54ff53a
    e := 0x510e527f, f := 0x9b05688c, g := 0x1f83d9ab, h := 0x5be0cd19 }

/-- The number k of zero bytes of the padding: the least with (n + 1 + k + 8) mod 64 = 0 (43_sha256_hmac_hkdf.md R106). -/
def shaPadZeros (n : Nat) : Nat := (119 - n % 64) % 64

/-- `Pad(M)` (43_sha256_hmac_hkdf.md R106). -/
def shaPad (m : Bytes) : Bytes :=
  m ++ 0x80 :: zeros (shaPadZeros m.length) ++ be64 (BitVec.ofNat 64 (8 * m.length))

/-- `n` more words of the message schedule; the words stand latest first, so `W[t-2]`, `W[t-7]`, `W[t-15]` and
`W[t-16]` are at 1, 6, 14 and 15 (43_sha256_hmac_hkdf.md R107). -/
def shaScheduleRev : Nat → List Word → List Word
  | 0, w => w
  | n + 1, w =>
    shaScheduleRev n
      ((smallSigma1 (w.getD 1 0) + w.getD 6 0 + smallSigma0 (w.getD 14 0) + w.getD 15 0) :: w)

/-- The 16 big-endian words of a 64-byte block. -/
def shaBlockWords (b : Bytes) : List Word := (chunksOf 4 16 b).map u32be

/-- `W[0..63]` of a block (43_sha256_hmac_hkdf.md R107). -/
def shaSchedule (b : Bytes) : List Word := (shaScheduleRev 48 (shaBlockWords b).reverse).reverse

/-- One round, with `kw = (K[t], W[t])` (43_sha256_hmac_hkdf.md R107). -/
def shaRound (v : HashWords) (kw : Word × Word) : HashWords :=
  let t1 := v.h + bigSigma1 v.e + shaCh v.e v.f v.g + kw.1 + kw.2
  let t2 := bigSigma0 v.a + shaMaj v.a v.b v.c
  { a := t1 + t2, b := v.a, c := v.b, d := v.c, e := v.d + t1, f := v.e, g := v.f, h := v.g }

/-- The sum, word by word. -/
def HashWords.add (x y : HashWords) : HashWords :=
  { a := x.a + y.a, b := x.b + y.b, c := x.c + y.c, d := x.d + y.d
    e := x.e + y.e, f := x.f + y.f, g := x.g + y.g, h := x.h + y.h }

/-- The hash value after one block (43_sha256_hmac_hkdf.md R107). -/
def shaCompress (hv : HashWords) (b : Bytes) : HashWords :=
  hv.add ((shaK.zip (shaSchedule b)).foldl shaRound hv)

/-- The digest bytes of a hash value (43_sha256_hmac_hkdf.md R107). -/
def HashWords.bytes (v : HashWords) : Bytes :=
  be32 v.a ++ be32 v.b ++ be32 v.c ++ be32 v.d ++ be32 v.e ++ be32 v.f ++ be32 v.g ++ be32 v.h

/-- `SHA256(M)` (43_sha256_hmac_hkdf.md R107). -/
def sha256 (m : Bytes) : Bytes :=
  ((chunksOf 64 ((shaPad m).length / 64) (shaPad m)).foldl shaCompress shaInit).bytes

/-- `K0` of HMAC (43_sha256_hmac_hkdf.md R108). -/
def hmacKey (key : Bytes) : Bytes :=
  let k := if 64 < key.length then sha256 key else key
  k ++ zeros (64 - k.length)

/-- `HMAC(key, msg)` (43_sha256_hmac_hkdf.md R108). -/
def hmac (key msg : Bytes) : Bytes :=
  let inner := sha256 (xorBytes (hmacKey key) (rep 0x36 64) ++ msg)
  sha256 (xorBytes (hmacKey key) (rep 0x5C 64) ++ inner)

/-- `HKDF_Extract(salt, ikm)` (43_sha256_hmac_hkdf.md R110). -/
def hkdfExtract (salt ikm : Bytes) : Bytes := hmac salt ikm

/-- The next block `T(i)` (43_sha256_hmac_hkdf.md R112). -/
def hkdfBlock (prk info t : Bytes) (i : Nat) : Bytes := hmac prk (t ++ info ++ [BitVec.ofNat 8 i])

/-- The loop of HKDF_Expand: `n` more blocks, from block i after the block t (43_sha256_hmac_hkdf.md R112). -/
def hkdfBlocks (prk info : Bytes) : Nat → Nat → Bytes → Bytes
  | 0, _, _ => []
  | n + 1, i, t => hkdfBlock prk info t i ++ hkdfBlocks prk info n (i + 1) (hkdfBlock prk info t i)

/-- `HKDF_Expand(prk, info, L)` (43_sha256_hmac_hkdf.md R112). -/
def hkdfExpand (prk info : Bytes) (len : Nat) : Bytes :=
  (hkdfBlocks prk info ((len + 31) / 32) 1 []).take len

/-- HMAC_SHA256 (43_sha256_hmac_hkdf.md R109). -/
def execHmacSha256 (key message : Bytes) (s : State) : Host.Outcome State Fault Refusal :=
  .next (complete s [hmac key message])

/-- HKDF_EXTRACT (43_sha256_hmac_hkdf.md R111). -/
def execHkdfExtract (salt ikm : Bytes) (s : State) : Host.Outcome State Fault Refusal :=
  .next (complete s [hkdfExtract salt ikm])

/-- HKDF_EXPAND (43_sha256_hmac_hkdf.md R113). -/
def execHkdfExpand (prk info : Bytes) (len : Half) (s : State) : Host.Outcome State Fault Refusal :=
  .next (finishOne s
    (if len.toNat < 1 ∨ 8160 < len.toNat then .error .hkdfL else .ok (hkdfExpand prk info len.toNat)))

end Sys2Proof.Machine
end

