-- ==== Sys2Proof/Machine/Nip44.lean ====
section
/-! DEFINITION. U8, the NIP-44 v2 envelope: strict base64, padding, message keys, encryption and decryption
(46_nip44.md R129-R143). -/

namespace Sys2Proof.Machine

/-- `A64[v]` (46_nip44.md R129), for v below 64. -/
def base64Char (v : Nat) : Byte :=
  if v < 26 then BitVec.ofNat 8 (65 + v)
  else if v < 52 then BitVec.ofNat 8 (97 + (v - 26))
  else if v < 62 then BitVec.ofNat 8 (48 + (v - 52))
  else if v = 62 then 0x2B
  else 0x2F

/-- The index of a character in A64 (46_nip44.md R129). -/
def base64Index (ch : Byte) : Option Nat :=
  let v := ch.toNat
  if 65 ≤ v ∧ v ≤ 90 then some (v - 65)
  else if 97 ≤ v ∧ v ≤ 122 then some (v - 97 + 26)
  else if 48 ≤ v ∧ v ≤ 57 then some (v - 48 + 52)
  else if v = 0x2B then some 62
  else if v = 0x2F then some 63
  else none

/-- The character '='. -/
def base64Pad : Byte := 0x3D

/-- The four characters of a group of 1 to 3 bytes (46_nip44.md R129). -/
def base64Group (g : Bytes) : Bytes :=
  let v := u24be (g ++ zeros (3 - g.length))
  [base64Char (v.extractLsb' 18 6).toNat, base64Char (v.extractLsb' 12 6).toNat,
   if g.length = 1 then base64Pad else base64Char (v.extractLsb' 6 6).toNat,
   if g.length ≤ 2 then base64Pad else base64Char (v.extractLsb' 0 6).toNat]

/-- `B64ENC(b)` (46_nip44.md R129). -/
def base64Encode (b : Bytes) : Bytes := (chunksOf 3 ((b.length + 2) / 3) b).flatMap base64Group

/-- The number of pad characters of a 4-character group (46_nip44.md R130). -/
def base64PadCount (isLast : Bool) (q : Bytes) : Nat :=
  if isLast ∧ q.getD 3 0 = base64Pad then (if q.getD 2 0 = base64Pad then 2 else 1) else 0

/-- `a_j`: 0 for a pad position, else the index of the character, if it has one (46_nip44.md R130). -/
def base64Value (np : Nat) (q : Bytes) (j : Nat) : Option Nat :=
  if 4 - np ≤ j then some 0 else base64Index (q.getD j 0)

/-- The bytes of one 4-character group, the unused bits checked to be 0 (46_nip44.md R130). -/
def base64DecodeGroup (isLast : Bool) (q : Bytes) : Except CmdError Bytes :=
  let np := base64PadCount isLast q
  match base64Value np q 0, base64Value np q 1, base64Value np q 2, base64Value np q 3 with
  | some a0, some a1, some a2, some a3 =>
    let v := a0 * 2 ^ 18 + a1 * 2 ^ 12 + a2 * 2 ^ 6 + a3
    if np = 2 ∧ v % 2 ^ 16 ≠ 0 then .error .base64
    else if np = 1 ∧ v % 2 ^ 8 ≠ 0 then .error .base64
    else .ok ((beNat 3 v).take (3 - np))
  | _, _, _, _ => .error .base64

/-- The loop of B64DEC over the groups (46_nip44.md R130). -/
def base64DecodeGroups : List Bytes → Except CmdError Bytes
  | [] => .ok []
  | q :: qs =>
    match base64DecodeGroup qs.isEmpty q with
    | .error e => .error e
    | .ok b =>
      match base64DecodeGroups qs with
      | .error e => .error e
      | .ok bs => .ok (b ++ bs)

/-- `B64DEC(t)` (46_nip44.md R130). -/
def base64Decode (t : Bytes) : Except CmdError Bytes :=
  if t.length % 4 ≠ 0 then .error .base64 else base64DecodeGroups (chunksOf 4 (t.length / 4) t)

/-- `calc_padded_len(L)`, for 1 ≤ L ≤ 65535 (46_nip44.md R131). -/
def calcPaddedLen (len : Nat) : Nat :=
  if len ≤ 32 then 32
  else
    let nextPower := 2 ^ bitlen (len - 1)
    let chunk := if nextPower ≤ 256 then 32 else nextPower / 8
    chunk * ((len - 1) / chunk + 1)

/-- `PAD(pt)`, for a plaintext of 1 to 65535 bytes (46_nip44.md R132). -/
def nip44Pad (pt : Bytes) : Bytes :=
  be16 (BitVec.ofNat 16 pt.length) ++ pt ++ zeros (calcPaddedLen pt.length - pt.length)

/-- `UNPAD(padded)` (46_nip44.md R142); the pad bytes are not checked. -/
def nip44Unpad (padded : Bytes) : Except CmdError Bytes :=
  let ul := (u16be padded).toNat
  if ul = 0 ∨ padded.length ≠ 2 + calcPaddedLen ul then .error .padding
  else .ok (slice padded 2 (2 + ul))

/-- The message keys (46_nip44.md R133). -/
structure MessageKeys where
  streamKey : Bytes
  streamNonce : Bytes
  macKey : Bytes
deriving DecidableEq, Repr

/-- `MSG_KEYS(ck, nonce)` (46_nip44.md R133). -/
def messageKeys (ck nonce : Bytes) : MessageKeys :=
  let k := hkdfExpand ck nonce 76
  { streamKey := slice k 0 32, streamNonce := slice k 32 44, macKey := slice k 44 76 }

/-- `HMAC_AAD(macKey, aad, msg)` (46_nip44.md R134). -/
def hmacAad (macKey aad msg : Bytes) : Except CmdError Bytes :=
  if aad.length ≠ 32 then .error .aadLen else .ok (hmac macKey (aad ++ msg))

/-- The salt, ASCII "nip44-v2" (43_sha256_hmac_hkdf.md R110). -/
def nip44Salt : Bytes := [0x6e, 0x69, 0x70, 0x34, 0x34, 0x2d, 0x76, 0x32]

/-- `CONV_KEY(privateKey, remoteX)` (46_nip44.md R135). -/
def conversationKey (privateKey remoteX : Bytes) : Except CmdError Bytes :=
  match ecdh privateKey remoteX with
  | .error e => .error e
  | .ok shared => .ok (hkdfExtract nip44Salt shared)

/-- `CT_EQUAL(a, b)` of two 32-byte strings (46_nip44.md R141); its timing is not modelled (log entry 12). -/
def ctEqual (a b : Bytes) : Bool :=
  (List.range 32).foldl (fun diff i => diff ||| (a.getD i 0 ^^^ b.getD i 0)) (0 : Byte) == 0

/-- The text form is within the bounds of step 5 (46_nip44.md R137). -/
def encodedWithinBounds (out : Bytes) : Except CmdError Bytes :=
  if out.length < 132 ∨ 87472 < out.length then .error .encodedLen else .ok out

/-- `NIP44_ENC(ck, nonce, pt)` (46_nip44.md R137). -/
def nip44Enc (ck nonce pt : Bytes) : Except CmdError Bytes :=
  if pt.length < 1 ∨ 65535 < pt.length then .error .plaintextLen
  else
    let mk := messageKeys ck nonce
    match chacha20 mk.streamKey mk.streamNonce 0 (nip44Pad pt) with
    | .error e => .error e
    | .ok ct =>
      match hmacAad mk.macKey nonce ct with
      | .error e => .error e
      | .ok mac => encodedWithinBounds (base64Encode (0x02 :: nonce ++ ct ++ mac))

/-- Steps 5 to 7 of NIP44_DEC, on the parts of the decoded payload (46_nip44.md R140): verify, then decrypt. -/
def nip44Open (ck nonce ct mac : Bytes) : Except CmdError Bytes :=
  let mk := messageKeys ck nonce
  match hmacAad mk.macKey nonce ct with
  | .error e => .error e
  | .ok expected =>
    if ctEqual expected mac = false then .error .mac
    else
      match chacha20 mk.streamKey mk.streamNonce 0 ct with
      | .error e => .error e
      | .ok padded => nip44Unpad padded

/-- `NIP44_DEC(ck, payload)` (46_nip44.md R140): the first check that fails decides the error. -/
def nip44Dec (ck payload : Bytes) : Except CmdError Bytes :=
  if payload.length < 132 ∨ 87472 < payload.length then .error .encodedLen
  else
    match base64Decode payload with
    | .error e => .error e
    | .ok raw =>
      if raw.length < 99 ∨ 65603 < raw.length then .error .decodedLen
      else if raw.getD 0 0 ≠ 0x02 then .error .version
      else nip44Open ck (slice raw 1 33) (slice raw 33 (raw.length - 32)) (slice raw (raw.length - 32) raw.length)

/-- NIP44_CONVKEY (46_nip44.md R136). -/
def execNip44Convkey (privateKey remoteX : Bytes) (s : State) : Host.Outcome State Fault Refusal :=
  .next (finishOne s (conversationKey privateKey remoteX))

/-- NIP44_ENCRYPT (46_nip44.md R139). -/
def execNip44Encrypt (ck nonce plaintext : Bytes) (s : State) : Host.Outcome State Fault Refusal :=
  .next (finishOne s (nip44Enc ck nonce plaintext))

/-- NIP44_DECRYPT (46_nip44.md R143). -/
def execNip44Decrypt (ck payload : Bytes) (s : State) : Host.Outcome State Fault Refusal :=
  .next (finishOne s (nip44Dec ck payload))

end Sys2Proof.Machine
end

