-- ==== Sys2Proof/Machine/Dispatch.lean ====
section
/-! DEFINITION. The dispatch: one arm per constructor of `Instr` (30_encoding.md R54, R65). -/

namespace Sys2Proof.Machine

def exec (i : Instr) (s : State) : Host.Outcome State Fault Refusal :=
  match i with
  | .nop => Sys2Proof.Machine.execNop s
  | .csrRead addr => Sys2Proof.Machine.execCsrRead addr s
  | .csrWrite addr value => Sys2Proof.Machine.execCsrWrite addr value s
  | .softReset => Sys2Proof.Machine.execSoftReset s
  | .crc16 data start stop => Sys2Proof.Machine.execCrc16 data start stop s
  | .crcInit => Sys2Proof.Machine.execCrcInit s
  | .crcUpdate data => Sys2Proof.Machine.execCrcUpdate data s
  | .frameEncode messageType correlationId targetPubkey iv payload => Sys2Proof.Machine.execFrameEncode messageType correlationId targetPubkey iv payload s
  | .decFeed chunk => Sys2Proof.Machine.execDecFeed chunk s
  | .decEos => Sys2Proof.Machine.execDecEos s
  | .decReset => Sys2Proof.Machine.execDecReset s
  | .aesCbcEnc key iv plaintext => Sys2Proof.Machine.execAesCbcEnc key iv plaintext s
  | .aesCbcDec key iv ciphertext => Sys2Proof.Machine.execAesCbcDec key iv ciphertext s
  | .hmacSha256 key message => Sys2Proof.Machine.execHmacSha256 key message s
  | .hkdfExtract salt ikm => Sys2Proof.Machine.execHkdfExtract salt ikm s
  | .hkdfExpand prk info len => Sys2Proof.Machine.execHkdfExpand prk info len s
  | .ecdhX privateKey remoteX => Sys2Proof.Machine.execEcdhX privateKey remoteX s
  | .chacha20 key nonce counter data => Sys2Proof.Machine.execChacha20 key nonce counter data s
  | .nip44Convkey privateKey remoteX => Sys2Proof.Machine.execNip44Convkey privateKey remoteX s
  | .nip44Encrypt ck nonce plaintext => Sys2Proof.Machine.execNip44Encrypt ck nonce plaintext s
  | .nip44Decrypt ck payload => Sys2Proof.Machine.execNip44Decrypt ck payload s

end Sys2Proof.Machine
end

