-- ==== Sys2Proof/Machine/Cycle.lean ====
section
/-! DEFINITION. The command cycle `Execute(desc)` (30_encoding.md R65), and what a step does with the command port. -/

namespace Sys2Proof.Machine

/-- `Execute(desc)`: decode, then perform the command's rule; a descriptor error ends the command before any state
write (30_encoding.md R50, R65). -/
def runDescriptor (desc : Bytes) (s : State) : Host.Outcome State Fault Refusal :=
  match decode s.cfg desc with
  | .error e => .next (raise s e)
  | .ok i => exec i s

/-- One step: the next descriptor on the port, executed whole (20_memory.md R38, R42); with none waiting the block is
idle and its state persists unchanged (60_exceptions.md R166; log entry 3, DEDUCED). -/
def commandCycle (s : State) : Host.Outcome State Fault Refusal :=
  match takeCommand s with
  | none => .next s
  | some (desc, s') => runDescriptor desc s'

end Sys2Proof.Machine
end

