-- ==== Sys2Proof/Machine/Step.lean ====
section
/-! DEFINITION. One step of the machine, and the placing of one instruction where the next step takes it. -/

namespace Sys2Proof.Machine

/-- One step: one command, executed whole (30_encoding.md R65, 00_scope.md R6). -/
def step (s : State) : Host.Outcome State Fault Refusal := commandCycle s

/-- The descriptor of an opcode-table word stands first on the command port, so that the next step executes it
(log entry 4). -/
def State.withFetchWord (s : State) (nbits w : Nat) : State :=
  s.withPending (descriptorOfWord nbits w :: s.pending)

end Sys2Proof.Machine
end

