-- ==== Sys2Proof/Machine/Asm.lean ====
section
/-! DEFINITION. What the host writes and reads: the assembler's line (30_encoding.md R63), the pseudo-instructions (R64) and
the walk of a response descriptor (R52, R57). No step of the machine uses this file. -/

namespace Sys2Proof.Machine

/-- An operand of an assembly line (30_encoding.md R63): `hexstr` and `text` both stand for bytes. -/
inductive AsmOperand where
  | bytes (b : Bytes)
  | integer (v : Nat)
  | zeroFill (n : Nat)
  | repFill (b : Byte) (n : Nat)
deriving DecidableEq, Repr

/-- The mnemonic of a row of the opcode map (30_encoding.md R54). -/
def mnemonic : Opcode → List Char
  | .nop => ['N', 'O', 'P']
  | .csrRead => ['C', 'S', 'R', '_', 'R', 'E', 'A', 'D']
  | .csrWrite => ['C', 'S', 'R', '_', 'W', 'R', 'I', 'T', 'E']
  | .softReset => ['S', 'O', 'F', 'T', '_', 'R', 'E', 'S', 'E', 'T']
  | .crc16 => ['C', 'R', 'C', '1', '6']
  | .crcInit => ['C', 'R', 'C', '_', 'I', 'N', 'I', 'T']
  | .crcUpdate => ['C', 'R', 'C', '_', 'U', 'P', 'D', 'A', 'T', 'E']
  | .frameEncode => ['F', 'R', 'A', 'M', 'E', '_', 'E', 'N', 'C', 'O', 'D', 'E']
  | .decFeed => ['D', 'E', 'C', '_', 'F', 'E', 'E', 'D']
  | .decEos => ['D', 'E', 'C', '_', 'E', 'O', 'S']
  | .decReset => ['D', 'E', 'C', '_', 'R', 'E', 'S', 'E', 'T']
  | .aesCbcEnc => ['A', 'E', 'S', '_', 'C', 'B', 'C', '_', 'E', 'N', 'C']
  | .aesCbcDec => ['A', 'E', 'S', '_', 'C', 'B', 'C', '_', 'D', 'E', 'C']
  | .hmacSha256 => ['H', 'M', 'A', 'C', '_', 'S', 'H', 'A', '2', '5', '6']
  | .hkdfExtract => ['H', 'K', 'D', 'F', '_', 'E', 'X', 'T', 'R', 'A', 'C', 'T']
  | .hkdfExpand => ['H', 'K', 'D', 'F', '_', 'E', 'X', 'P', 'A', 'N', 'D']
  | .ecdhX => ['E', 'C', 'D', 'H', '_', 'X']
  | .chacha20 => ['C', 'H', 'A', 'C', 'H', 'A', '2', '0']
  | .nip44Convkey => ['N', 'I', 'P', '4', '4', '_', 'C', 'O', 'N', 'V', 'K', 'E', 'Y']
  | .nip44Encrypt => ['N', 'I', 'P', '4', '4', '_', 'E', 'N', 'C', 'R', 'Y', 'P', 'T']
  | .nip44Decrypt => ['N', 'I', 'P', '4', '4', '_', 'D', 'E', 'C', 'R', 'Y', 'P', 'T']

/-- Which operands are integers (30_encoding.md R51). -/
def operandIsInteger : Opcode → List Bool
  | .nop => []
  | .csrRead => [true]
  | .csrWrite => [true, true]
  | .softReset => []
  | .crc16 => [false, true, true]
  | .crcInit => []
  | .crcUpdate => [false]
  | .frameEncode => [true, false, false, false, false]
  | .decFeed => [false]
  | .decEos => []
  | .decReset => []
  | .aesCbcEnc => [false, false, false]
  | .aesCbcDec => [false, false, false]
  | .hmacSha256 => [false, false]
  | .hkdfExtract => [false, false]
  | .hkdfExpand => [false, false, true]
  | .ecdhX => [false, false]
  | .chacha20 => [false, false, true, false]
  | .nip44Convkey => [false, false]
  | .nip44Encrypt => [false, false, false]
  | .nip44Decrypt => [false, false]

/-- The bytes of one assembly operand; `none` is an assembly error: an integer where the opcode map has none, or one
that does not fit its width (30_encoding.md R63). Bytes or a fill where the opcode map has an integer are written as they
stand (log entry 13, DESIGN CHOICE). -/
def asmOperandBytes (len : Option Nat) (isInteger : Bool) : AsmOperand → Option Bytes
  | .bytes b => some b
  | .zeroFill n => some (zeros n)
  | .repFill b n => some (rep b n)
  | .integer v =>
    match isInteger, len with
    | true, some k => if v < 256 ^ k then some (beNat k v) else none
    | _, _ => none

/-- The operands of a line against the operand positions of its opcode; their number must be the same. -/
def asmOperandList : List (Option Nat) → List Bool → List AsmOperand → Option (List Bytes)
  | [], [], [] => some []
  | len :: lens, isInt :: isInts, op :: ops =>
    match asmOperandBytes len isInt op, asmOperandList lens isInts ops with
    | some b, some bs => some (b :: bs)
    | _, _ => none
  | _, _, _ => none

/-- The descriptor of an assembly line (30_encoding.md R63): the header word of R54, and the length of every operand.
The lengths of byte-string operands are the block's to check, not the assembler's (95_test_vectors.md P4 assembles a
15-byte IV). -/
def assemble (o : Opcode) (ops : List AsmOperand) : Option Bytes :=
  match asmOperandList (operandLens o) (operandIsInteger o) ops with
  | some bs => some (headerBytes o ++ bs.flatMap lengthPrefixed)
  | none => none

/-- Blanks between the parts of a line are skipped (log entry 13). -/
def skipBlanks : List Char → List Char
  | [] => []
  | c :: cs => if c = ' ' ∨ c = '\t' then skipBlanks cs else c :: cs

/-- The value of a hexadecimal digit, in capitals or not (log entry 13). -/
def hexDigitValue (c : Char) : Option Nat :=
  if '0' ≤ c ∧ c ≤ '9' then some (c.toNat - 48)
  else if 'a' ≤ c ∧ c ≤ 'f' then some (c.toNat - 87)
  else if 'A' ≤ c ∧ c ≤ 'F' then some (c.toNat - 55)
  else none

/-- The digits of a number in a base, and what follows them. -/
def takeDigits (base : Nat) : List Char → List Nat × List Char
  | [] => ([], [])
  | c :: cs =>
    match hexDigitValue c with
    | some v => if v < base then (v :: (takeDigits base cs).1, (takeDigits base cs).2) else ([], c :: cs)
    | none => ([], c :: cs)

/-- Digits, at least one, as a number. -/
def digitsNumber (base : Nat) (cs : List Char) : Option (Nat × List Char) :=
  match takeDigits base cs with
  | ([], _) => none
  | (ds, rest) => some (ds.foldl (fun acc d => acc * base + d) 0, rest)

/-- `decimal | "0x" hexdigits` (30_encoding.md R63). -/
def parseNumber : List Char → Option (Nat × List Char)
  | '0' :: 'x' :: cs => digitsNumber 16 cs
  | cs => digitsNumber 10 cs

/-- The pairs of hexadecimal digits up to the closing quote. -/
def parseHexBytes : List Char → Option (Bytes × List Char)
  | '"' :: cs => some ([], cs)
  | a :: b :: cs =>
    match hexDigitValue a, hexDigitValue b, parseHexBytes cs with
    | some x, some y, some (bs, rest) => some (BitVec.ofNat 8 (x * 16 + y) :: bs, rest)
    | _, _, _ => none
  | _ => none

/-- The ASCII characters up to the closing quote, `\"` and `\\` escaped (30_encoding.md R63). A backslash before any other
character is an assembly error: R63 names these two escapes and says nothing of others (log entry 13, DESIGN CHOICE). -/
def parseText : List Char → Option (Bytes × List Char)
  | '"' :: cs => some ([], cs)
  | '\\' :: c :: cs =>
    if c = '"' ∨ c = '\\' then (parseText cs).map (fun r => (BitVec.ofNat 8 c.toNat :: r.1, r.2)) else none
  | c :: cs => if c.toNat < 128 then (parseText cs).map (fun r => (BitVec.ofNat 8 c.toNat :: r.1, r.2)) else none
  | [] => none

/-- The rest after a character that must come next, blanks before it skipped. -/
def expectChar (c : Char) (cs : List Char) : Option (List Char) :=
  match skipBlanks cs with
  | d :: ds => if d = c then some ds else none
  | [] => none

/-- `operand := hexstr | text | integer | fill` (30_encoding.md R63); the `byte` of a fill is a number below 256
(log entry 13). -/
def parseOperand : List Char → Option (AsmOperand × List Char)
  | 'x' :: '"' :: cs => (parseHexBytes cs).map (fun r => (.bytes r.1, r.2))
  | '"' :: cs => (parseText cs).map (fun r => (.bytes r.1, r.2))
  | '#' :: cs => (parseNumber cs).map (fun r => (.integer r.1, r.2))
  | 'z' :: 'e' :: 'r' :: 'o' :: 's' :: '(' :: cs =>
    (parseNumber (skipBlanks cs)).bind fun n => (expectChar ')' n.2).map fun rest => (.zeroFill n.1, rest)
  | 'r' :: 'e' :: 'p' :: '(' :: cs =>
    (parseNumber (skipBlanks cs)).bind fun b =>
      if b.1 < 256 then
        (expectChar ',' b.2).bind fun rest =>
          (parseNumber (skipBlanks rest)).bind fun n =>
            (expectChar ')' n.2).map fun rest' => (.repFill (BitVec.ofNat 8 b.1) n.1, rest')
      else none
  | _ => none

/-- At most `n` operands, comma-separated, then the end of the line or a comment. -/
def parseOperands : Nat → List Char → Option (List AsmOperand)
  | 0, _ => none
  | n + 1, cs =>
    (parseOperand (skipBlanks cs)).bind fun r =>
      match skipBlanks r.2 with
      | [] => some [r.1]
      | ';' :: _ => some [r.1]
      | ',' :: rest => (parseOperands n rest).map (fun ops => r.1 :: ops)
      | _ => none

/-- `line := mnemonic [ operand ("," operand)* ] [ ";" comment ]` (30_encoding.md R63). -/
def parseLine (line : List Char) : Option (Opcode × List AsmOperand) :=
  let cs := skipBlanks line
  let word := cs.takeWhile (fun c => c.isUpper || c.isDigit || c = '_')
  let rest := skipBlanks (cs.dropWhile (fun c => c.isUpper || c.isDigit || c = '_'))
  (opcodeMap.find? (fun o => mnemonic o == word)).bind fun o =>
    match rest with
    | [] => some (o, [])
    | ';' :: _ => some (o, [])
    | _ => (parseOperands 5 rest).map (fun ops => (o, ops))

/-- A line of assembly as its command descriptor. -/
def assembleLine (line : List Char) : Option Bytes := (parseLine line).bind fun r => assemble r.1 r.2

/-- `CRC16.ALL d` (30_encoding.md R64). -/
def crc16All (d : Bytes) : Instr := .crc16 d 0 (length32 d.length)

/-- `CRC.LOAD v` (30_encoding.md R64). -/
def crcLoad (v : Word) : Instr := .csrWrite 0x0002 v

/-- `CRC.READ` (30_encoding.md R64). -/
def crcReadBack : Instr := .csrRead 0x0002

/-- `DEC.CAP n` (30_encoding.md R64). -/
def decCap (n : Word) : Instr := .csrWrite 0x0003 n

/-- `ENC.BARE t, c, iv` (30_encoding.md R64). -/
def encBare (t : Half) (c iv : Bytes) : Instr := .frameEncode t c (zeros 32) iv []

/-- `HKDF salt, ikm, info, L`: the first command, and the second from the first's output (30_encoding.md R64). -/
def hkdfPair (salt ikm info : Bytes) (len : Half) : Instr × (Bytes → Instr) :=
  (.hkdfExtract salt ikm, fun r => .hkdfExpand r info len)

/-- `NIP44.KEYS ck, nonce` (30_encoding.md R64). -/
def nip44Keys (ck nonce : Bytes) : Instr := .hkdfExpand ck nonce 76

/-- `CHACHA20.Z k, n, d` (30_encoding.md R64). -/
def chacha20Zero (k n d : Bytes) : Instr := .chacha20 k n 0 d

/-- `CONVKEY.SPLIT d, x`: the first command, and the second from the first's output (30_encoding.md R64). -/
def convkeySplit (d x : Bytes) : Instr × (Bytes → Instr) := (.ecdhX d x, fun r => .hkdfExtract nip44Salt r)

/-- `n` length-prefixed outputs, and the bytes after the last (30_encoding.md R52, R57). -/
def walkOutputs : Nat → Bytes → Option (List Bytes × Bytes)
  | 0, rest => some ([], rest)
  | n + 1, rest =>
    if rest.length < 4 ∨ (rest.drop 4).length < (u32be rest).toNat then none
    else
      (walkOutputs n ((rest.drop 4).drop (u32be rest).toNat)).map fun r =>
        ((rest.drop 4).take (u32be rest).toNat :: r.1, r.2)

/-- A response descriptor as its STATUS, SUB and outputs (30_encoding.md R52), walked as R57 says. -/
def parseResponse (r : Bytes) : Option (Byte × Byte × List Bytes) :=
  if r.length < 4 then none
  else
    (walkOutputs (u16be (r.drop 2)).toNat (r.drop 4)).bind fun o =>
      if o.2 = [] then some (r.getD 0 0, r.getD 1 0, o.1) else none

end Sys2Proof.Machine
end

