-- ==== Sys2Proof/Safety.lean ====
section
/-! DEFINITION. What counts as a good state and a good outcome, in the terms the statements use: the legal status pairs
(60_exceptions.md R148, R149), the decoder invariants (10_state.md R28), the errors of each command (R151), the two ways a
command ends (30_encoding.md R65), written out as record updates so that a statement shows its frame, and runs of DEC_FEED
(41_frame_codec.md R81). -/

namespace Sys2Proof.Machine

/-- The (status, sub) pairs that a command can end with: OK, and the table of 60_exceptions.md R149 without the pair
that is "event only"; every other pair is never produced. -/
def statusPairs : List (Nat × Nat) :=
  [(0, 0), (1, 0)] ++
  [(2, 1), (2, 2), (2, 3), (2, 4), (2, 5), (2, 6), (2, 7), (2, 8), (2, 9)] ++
  [(4, 1), (4, 2)] ++
  [(5, 1), (5, 2), (5, 3)] ++
  [(6, 1), (6, 2), (6, 3), (6, 4), (6, 5), (6, 6), (6, 7), (6, 8)] ++
  [(7, 1), (7, 2)] ++
  [(8, 0), (8, 1), (8, 2), (8, 3)] ++
  [(9, 0)]

/-- The status bytes are a pair that the block produces. -/
def statusLegal (s : State) : Bool := statusPairs.contains (s.lastStatus.toNat, s.lastSub.toNat)

/-- The table of 10_state.md R28; in AWAIT_PAYLOAD, `dlen` was at most `maxpay` when the header completed, so it is at
most PAYLOAD_BUF_MAX. -/
def decoderWf (s : State) : Bool :=
  match s.dstate with
  | .awaitHeader => s.dbuf.length ≤ 71 && s.dlen == 0
  | .awaitPayload =>
    72 ≤ s.dbuf.length && s.dbuf.length ≤ 73 + s.dlen.toNat && s.dlen == u32be (slice s.dbuf 68 72) &&
      decide (s.dlen ≤ s.cfg.payloadBufMax)
  | .closed => s.dbuf == [] && s.dlen == 0
  | .faulted => s.dbuf == [] && s.dlen == 0

/-- The invariant of the whole state: legal status, the decoder's table, the cap within PAYLOAD_BUF_MAX
(10_state.md R15, R21), and parameters in the range that 00_scope.md R7 gives them. -/
def State.wf (s : State) : Bool :=
  statusLegal s && decoderWf s && decide (s.maxpay ≤ s.cfg.payloadBufMax) && decide s.cfg.Valid

/-- The decoder is in one of its two working states, AWAIT_HEADER or AWAIT_PAYLOAD. -/
abbrev DecoderOpen (s : State) : Prop := s.dstate = .awaitHeader ∨ s.dstate = .awaitPayload

/-- The response descriptor of a command that ends with OK and the outputs `outs`, byte by byte (30_encoding.md R52). -/
def okResponse (outs : List Bytes) : Bytes :=
  [0x00, 0x00] ++ be16 (count16 outs.length) ++ outs.flatMap (fun o => be32 (length32 o.length) ++ o)

/-- The state `s`, after a command that ended with OK and the outputs `outs` and changed no other field. -/
def afterOk (s : State) (outs : List Bytes) : State :=
  { s with lastStatus := 0x00, lastSub := 0x00, responses := s.responses ++ [okResponse outs] }

/-- The state `s`, after a command that ended with the error (st, sub) and changed no other field: no output
(60_exceptions.md R150). -/
def afterError (s : State) (st sub : Byte) : State :=
  { s with lastStatus := st, lastSub := sub, responses := s.responses ++ [[st, sub, 0x00, 0x00]] }

/-- The commands that 20_memory.md R39 calls pure. -/
def isPure : Instr → Bool
  | .nop | .crc16 _ _ _ | .frameEncode _ _ _ _ _ | .aesCbcEnc _ _ _ | .aesCbcDec _ _ _ | .hmacSha256 _ _ => true
  | .hkdfExtract _ _ | .hkdfExpand _ _ _ | .ecdhX _ _ | .chacha20 _ _ _ _ => true
  | .nip44Convkey _ _ | .nip44Encrypt _ _ _ | .nip44Decrypt _ _ => true
  | .csrRead _ | .csrWrite _ _ | .softReset | .crcInit | .crcUpdate _ => false
  | .decFeed _ | .decEos | .decReset => false

/-- The errors beyond the descriptor errors that a command can raise (60_exceptions.md R151). -/
def errorsOf : Opcode → List CmdError
  | .nop | .softReset | .crcInit | .crcUpdate | .frameEncode | .decReset | .aesCbcEnc | .hmacSha256 | .hkdfExtract => []
  | .csrRead => [.csrAddr]
  | .csrWrite => [.csrRo, .csrAddr]
  | .crc16 => [.range]
  | .decFeed => [.alreadyClosed, .faulted]
  | .decEos => [.clean, .partialFrame, .alreadyClosed, .wasFaulted]
  | .aesCbcDec => [.ctLen, .padValue, .padBytes]
  | .hkdfExpand => [.hkdfL]
  | .ecdhX | .nip44Convkey => [.scalar, .point]
  | .chacha20 => [.chachaCounter]
  | .nip44Encrypt => [.plaintextLen]
  | .nip44Decrypt => [.encodedLen, .base64, .decodedLen, .version, .mac, .padding]

/-- Consecutive DEC_FEED commands, one for each chunk, each of them run by `exec` in the state that the one before it
left (41_frame_codec.md R81). -/
def runFeeds : State → List Bytes → Host.Outcome State Fault Refusal
  | s, [] => .next s
  | s, c :: cs =>
    match exec (.decFeed c) s with
    | .next t => runFeeds t cs
    | .fault f => .fault f
    | .refused r => .refused r

/-- The response of a DEC_FEED carries the event list `events`: an OK response whose outputs they are, or the response of
a feed refused in CLOSED or FAULTED, which carries none (41_frame_codec.md R74). -/
def CarriesEvents (response : Bytes) (events : List Bytes) : Prop :=
  response = okResponse events ∨
    (events = [] ∧ (response = [0x08, 0x02, 0x00, 0x00] ∨ response = [0x09, 0x00, 0x00, 0x00]))

end Sys2Proof.Machine
end

