-- ==== Sys2Proof/Certificates/Slice0/Obligations.lean ====
section
/-! DEFINITION. The statements for the provers, in the terms of Sys2Proof/Safety.lean: `afterOk s outs` and
`afterError s st sub` are the state `s` with the status written and one response returned, every other field as it was. -/

open Sys2Proof Sys2Proof.Machine

/-! ### Decoding and encoding (30_encoding.md) -/

/-- R48-R51, R54: the decoder reads back every command that the encoder lays out, every operand at every value. -/
def Obligations.DecodeOfEncode : Prop :=
  ∀ (cfg : Config) (i : Instr), cfg.Valid → i.wellFormed cfg = true → decode cfg (encode i) = .ok i

/-- R49, R50, R57: a descriptor that decodes is the one descriptor of its command: no byte of it is dropped. -/
def Obligations.EncodeOfDecode : Prop :=
  ∀ (cfg : Config) (desc : Bytes) (i : Instr), decode cfg desc = .ok i → i.wellFormed cfg = true ∧ encode i = desc

/-- R54: a few descriptors written out byte by byte decode to their commands. -/
def Obligations.SampleDescriptorsDecode : Prop :=
  decode Config.thisHardware [0x00, 0x00, 0x00, 0x00] = .ok .nop ∧
  decode Config.thisHardware [0x01, 0x00, 0x00, 0x01, 0x00, 0x00, 0x00, 0x02, 0x00, 0x02] = .ok (.csrRead 0x0002) ∧
  decode Config.thisHardware [0x12, 0x00, 0x00, 0x01, 0x00, 0x00, 0x00, 0x02, 0x31, 0x32] =
    .ok (.crcUpdate [0x31, 0x32]) ∧
  decode Config.thisHardware [0x22, 0x00, 0x00, 0x00] = .ok .decEos ∧
  decode Config.thisHardware
    [0x42, 0x00, 0x00, 0x03, 0x00, 0x00, 0x00, 0x01, 0xAA, 0x00, 0x00, 0x00, 0x00, 0x00, 0x00, 0x00, 0x02, 0x01, 0x02] =
    .ok (.hkdfExpand [0xAA] [] 0x0102)

/-- R50, R55, R56: the header checks, in their order: a descriptor below 4 bytes; then the opcode, one of 21 bytes; then RSV;
then NOPS against the opcode's count. -/
def Obligations.HeaderChecksInOrder : Prop :=
  let counts : List (Nat × Nat) :=
    [(0x00, 0), (0x01, 1), (0x02, 2), (0x03, 0), (0x10, 3), (0x11, 0), (0x12, 1), (0x20, 5), (0x21, 1), (0x22, 0),
     (0x23, 0), (0x30, 3), (0x31, 3), (0x40, 2), (0x41, 2), (0x42, 3), (0x50, 2), (0x60, 4), (0x70, 2), (0x71, 3), (0x72, 2)]
  (∀ (cfg : Config) (desc : Bytes), desc.length < 4 → decode cfg desc = .error .truncated) ∧
  (∀ (cfg : Config) (opc rsv n1 n0 : Byte) (rest : Bytes),
    ((∀ n, (opc.toNat, n) ∉ counts) → decode cfg (opc :: rsv :: n1 :: n0 :: rest) = .error .opcode) ∧
    (∀ n, (opc.toNat, n) ∈ counts →
      (rsv ≠ 0 → decode cfg (opc :: rsv :: n1 :: n0 :: rest) = .error .rsvNonzero) ∧
      (rsv = 0 → 256 * n1.toNat + n0.toNat ≠ n →
        decode cfg (opc :: rsv :: n1 :: n0 :: rest) = .error .nopsMismatch)))

/-- R50, R55: the operand checks on a command of one variable operand (CRC_UPDATE), in their order; and the fixed-length
check (CSR_READ), which comes last: an address operand of any length that is above MAX_OPERAND_LEN is OPLEN_MAX, whatever
follows; one within it that is followed by a further byte is TRAILING, whatever its length; with nothing after it, one of
another length than 2 is OPLEN_FIXED. -/
def Obligations.OperandChecksInOrder : Prop :=
  (∀ (cfg : Config) (short : Bytes), short.length < 4 →
    decode cfg ([0x12, 0x00, 0x00, 0x01] ++ short) = .error .truncated) ∧
  (∀ (cfg : Config) (len : Word) (body : Bytes),
    decode cfg ([0x12, 0x00, 0x00, 0x01] ++ be32 len ++ body) =
      if cfg.maxOperandLen < len.toNat then .error .oplenMax
      else if body.length < len.toNat then .error .truncated
      else if len.toNat < body.length then .error .trailing
      else .ok (.crcUpdate body)) ∧
  (∀ (cfg : Config) (addr : Bytes), addr.length < 2 ^ 32 →
    (cfg.maxOperandLen < addr.length → ∀ rest : Bytes,
      decode cfg ([0x01, 0x00, 0x00, 0x01] ++ be32 (BitVec.ofNat 32 addr.length) ++ addr ++ rest) = .error .oplenMax) ∧
    (addr.length ≤ cfg.maxOperandLen → ∀ (b : Byte) (rest : Bytes),
      decode cfg ([0x01, 0x00, 0x00, 0x01] ++ be32 (BitVec.ofNat 32 addr.length) ++ addr ++ b :: rest) = .error .trailing) ∧
    (addr.length ≤ cfg.maxOperandLen → addr.length ≠ 2 →
      decode cfg ([0x01, 0x00, 0x00, 0x01] ++ be32 (BitVec.ofNat 32 addr.length) ++ addr) = .error .oplenFixed))

/-- R52, R57: a response is walked back to its status, sub-code and outputs. -/
def Obligations.ResponseWalksBack : Prop :=
  ∀ (st sub : Byte) (outs : List Bytes), outs.length < 2 ^ 16 → (∀ o ∈ outs, o.length < 2 ^ 32) →
    parseResponse (responseBytes st sub outs) = some (st, sub, outs)

/-! ### The command cycle, and what every command does (30_encoding.md R65, 60_exceptions.md) -/

/-- R42, R65: a step takes the first descriptor on the port and runs the command that it decodes to. -/
def Obligations.StepRunsDecoded : Prop :=
  ∀ (s : State) (desc : Bytes) (ds : List Bytes) (i : Instr), s.pending = desc :: ds → decode s.cfg desc = .ok i →
    step s = exec i { s with pending := ds }

/-- R50, R55, R65, R150: a step on a malformed descriptor writes the error's status, returns an error response, and changes
nothing else. -/
def Obligations.StepReportsDescriptorError : Prop :=
  ∀ (s : State) (desc : Bytes) (ds : List Bytes) (e : CmdError), s.pending = desc :: ds → decode s.cfg desc = .error e →
    step s = .next (afterError { s with pending := ds } e.status e.sub)

/-- The model's choice of log entry 3, DEDUCED from R166: with no descriptor waiting the state persists unchanged. -/
def Obligations.IdleStepKeepsState : Prop :=
  ∀ s : State, s.pending = [] → step s = .next s

/-- R25, R52, R65, R179: every command completes and returns exactly one response, which carries the status that the
state then holds. The clauses `t.pending = ds` and `t.cfg = s.cfg` rest on the model's own choices: the port as a list
(log entry 1, DESIGN CHOICE), the parameters as a field of State (log entry 5, DESIGN CHOICE), and that SOFT_RESET keeps
both (log entry 11, DEDUCED). -/
def Obligations.EveryCommandAnswers : Prop :=
  ∀ (s : State) (desc : Bytes) (ds : List Bytes), s.pending = desc :: ds →
    ∃ (t : State) (outs : List Bytes), step s = .next t ∧ t.pending = ds ∧ t.cfg = s.cfg ∧
      t.responses = s.responses ++ [responseBytes t.lastStatus t.lastSub outs] ∧
      (t.lastStatus = 0 → t.lastSub = 0) ∧ (t.lastStatus ≠ 0 → outs = [])

/-- R150: a command other than DEC_EOS that ends with an error has changed nothing but the status, and its response has
no output. -/
def Obligations.FailedCommandChangesNothing : Prop :=
  ∀ (i : Instr) (s t : State), i ≠ .decEos → exec i s = .next t → t.lastStatus ≠ 0 →
    t = afterError s t.lastStatus t.lastSub

/-- R151: a well-formed command ends with OK (DEC_EOS never), or with one of the errors of its row. -/
def Obligations.ErrorsOfEachCommand : Prop :=
  ∀ (i : Instr) (s t : State), s.cfg.Valid → i.wellFormed s.cfg = true → exec i s = .next t →
    (t.lastStatus = 0x00 ∧ t.lastSub = 0x00 ∧ i ≠ .decEos) ∨
    (∃ e ∈ errorsOf i.opcode, t.lastStatus = e.status ∧ t.lastSub = e.sub)

/-- R30, R39: a pure command gives the same response in every state and changes only the status. -/
def Obligations.PureCommandsIgnoreState : Prop :=
  ∀ i : Instr, isPure i = true →
    ∃ (st sub : Byte) (r : Bytes), ∀ s : State,
      exec i s = .next { s with lastStatus := st, lastSub := sub, responses := s.responses ++ [r] }

/-- R39: what the other commands leave unchanged: CSR_READ all but the status, CSR_WRITE all but `crc`, `maxpay` and the
status, CRC_INIT and CRC_UPDATE all but `crc` and the status, DEC_FEED, DEC_EOS and DEC_RESET all but the decoder's
state and the status. -/
def Obligations.StatefulCommandsFrame : Prop :=
  ∀ (s t : State),
    (∀ a, exec (.csrRead a) s = .next t →
      t = { s with lastStatus := t.lastStatus, lastSub := t.lastSub, responses := t.responses }) ∧
    (∀ a v, exec (.csrWrite a v) s = .next t →
      t = { s with crc := t.crc, maxpay := t.maxpay, lastStatus := t.lastStatus, lastSub := t.lastSub,
                   responses := t.responses }) ∧
    (∀ i, i = .crcInit ∨ (∃ d, i = .crcUpdate d) → exec i s = .next t →
      t = { s with crc := t.crc, lastStatus := t.lastStatus, lastSub := t.lastSub, responses := t.responses }) ∧
    (∀ i, (∃ c, i = .decFeed c) ∨ i = .decEos ∨ i = .decReset → exec i s = .next t →
      t = { s with dstate := t.dstate, dbuf := t.dbuf, dlen := t.dlen, lastStatus := t.lastStatus, lastSub := t.lastSub,
                   responses := t.responses })

/-- R15, R21, R28, R148, R149: every step keeps the decoder's table, the cap within PAYLOAD_BUF_MAX and a legal status
pair. -/
def Obligations.StepKeepsStateWf : Prop :=
  ∀ s t : State, s.wf = true → step s = .next t → t.wf = true

/-- R28, R31: the reset state meets the invariant. -/
def Obligations.ResetIsWf : Prop := State.reset.wf = true

/-! ### U0, control (47_control.md) and the CSRs (10_state.md) -/

/-- R31: every field and every CSR after power-on reset and after SOFT_RESET. -/
def Obligations.ResetValues : Prop :=
  State.reset.maxpay = 65536 ∧
  ∀ (s t : State), t = State.reset ∨ t = powerOnReset s ∨ exec .softReset s = .next t →
    t.crc = 0xFFFF ∧ t.dstate = .awaitHeader ∧ t.dbuf = [] ∧ t.dlen = 0 ∧ t.maxpay = t.cfg.payloadBufMax ∧
    t.lastStatus = 0x00 ∧ t.lastSub = 0x00 ∧
    csrValue t 0x0000 = .ok 0x4E530701 ∧ csrValue t 0x0001 = .ok 0x00000000 ∧ csrValue t 0x0002 = .ok 0x0000FFFF ∧
    csrValue t 0x0003 = .ok t.cfg.payloadBufMax ∧ csrValue t 0x0004 = .ok 0 ∧ csrValue t 0x0005 = .ok 0

/-- R147: SOFT_RESET completes with OK and every field of R15 at its reset value; the parameters and the port stay
(log entry 11). -/
def Obligations.SoftResetResult : Prop :=
  ∀ s : State, exec .softReset s =
    .next { s with crc := 0xFFFF, dstate := .awaitHeader, dbuf := [], dlen := 0, maxpay := s.cfg.payloadBufMax
                   lastStatus := 0x00, lastSub := 0x00, responses := s.responses ++ [[0x00, 0x00, 0x00, 0x00]] }

/-- R144: NOP, its descriptor, its response `00000000`, and the TRAILING error for `00000000` plus any byte. -/
def Obligations.NopResult : Prop :=
  encode .nop = [0x00, 0x00, 0x00, 0x00] ∧
  (∀ s : State, exec .nop s =
    .next { s with lastStatus := 0x00, lastSub := 0x00, responses := s.responses ++ [[0x00, 0x00, 0x00, 0x00]] }) ∧
  (∀ (cfg : Config) (b : Byte) (rest : Bytes), decode cfg ([0x00, 0x00, 0x00, 0x00] ++ b :: rest) = .error .trailing) ∧
  CmdError.trailing.status = 0x02 ∧ CmdError.trailing.sub = 0x04

/-- R18-R23, R145: CSR_READ of the six registers, each read before the command's own status write. -/
def Obligations.CsrReadResult : Prop :=
  ∀ s : State,
    exec (.csrRead 0x0000) s = .next (afterOk s [[0x4E, 0x53, 0x07, 0x01]]) ∧
    exec (.csrRead 0x0001) s =
      .next (afterOk s [[0x00, match s.dstate with
                               | .awaitHeader => 0x00
                               | .awaitPayload => 0x01
                               | .closed => 0x02
                               | .faulted => 0x03, s.lastSub, s.lastStatus]]) ∧
    exec (.csrRead 0x0002) s = .next (afterOk s [[0x00, 0x00] ++ be16 s.crc]) ∧
    exec (.csrRead 0x0003) s = .next (afterOk s [be32 s.maxpay]) ∧
    (s.dbuf.length < 2 ^ 32 → exec (.csrRead 0x0004) s = .next (afterOk s [be32 (BitVec.ofNat 32 s.dbuf.length)])) ∧
    exec (.csrRead 0x0005) s = .next (afterOk s [be32 s.dlen])

/-- R24: a CSR_READ or a CSR_WRITE at an address from 0x0006 up raises ERR_OPERAND(CSR_ADDR) and changes no state but the
status. -/
def Obligations.UnimplementedCsr : Prop :=
  ∀ (s : State) (a : Half) (v : Word), 0x0006 ≤ a.toNat →
    exec (.csrRead a) s = .next (afterError s 0x02 0x08) ∧ exec (.csrWrite a v) s = .next (afterError s 0x02 0x08)

/-- R18-R23, R146: CSR_WRITE to CRC writes the low half; to DEC_MAXPAY, the smaller of the value and PAYLOAD_BUF_MAX; to a
read-only register it raises ERR_OPERAND(CSR_RO). -/
def Obligations.CsrWriteResult : Prop :=
  ∀ (s : State) (v : Word),
    exec (.csrWrite 0x0002 v) s = .next (afterOk { s with crc := BitVec.ofNat 16 v.toNat } []) ∧
    exec (.csrWrite 0x0003 v) s =
      .next (afterOk { s with maxpay := BitVec.ofNat 32 (min v.toNat s.cfg.payloadBufMax.toNat) } []) ∧
    (∀ a ∈ ([0x0000, 0x0001, 0x0004, 0x0005] : List Half),
      exec (.csrWrite a v) s = .next (afterError s 0x02 0x09))

/-! ### U1, CRC-16 (40_crc16.md) -/

/-- R67, R68: CRC16 on a legal range, and ERR_OPERAND(RANGE) on any other. -/
def Obligations.Crc16Result : Prop :=
  ∀ (s : State) (data : Bytes) (start stop : Word),
    (start.toNat ≤ stop.toNat → stop.toNat ≤ data.length →
      exec (.crc16 data start stop) s =
        .next (afterOk s [be16 (((data.take stop.toNat).drop start.toNat).foldl crcStep 0xFFFF)])) ∧
    (stop.toNat < start.toNat ∨ data.length < stop.toNat →
      exec (.crc16 data start stop) s = .next (afterError s 0x02 0x07))

/-- R69: CRC_INIT: its descriptor, `crc <- 0xFFFF` and nothing else, idempotent, and the CSR_READ example. -/
def Obligations.CrcInitResult : Prop :=
  encode .crcInit = [0x11, 0x00, 0x00, 0x00] ∧
  (∀ s : State, exec .crcInit s = .next (afterOk { s with crc := 0xFFFF } [])) ∧
  (∀ s t u : State, exec .crcInit s = .next t → exec .crcInit t = .next u →
    u.crc = t.crc ∧ exec (.csrRead 0x0002) t = .next (afterOk t [[0x00, 0x00, 0xFF, 0xFF]]))

/-- R70: CRC_UPDATE folds its data into `crc` and returns it. -/
def Obligations.CrcUpdateResult : Prop :=
  ∀ (s : State) (data : Bytes),
    exec (.crcUpdate data) s =
      .next (afterOk { s with crc := data.foldl crcStep s.crc } [be16 (data.foldl crcStep s.crc)])

/-- R70: the CRC does not depend on how the host splits the data: CRC_INIT and two CRC_UPDATEs leave in `crc` what CRC16
returns for the whole. -/
def Obligations.CrcSplitIndependent : Prop :=
  ∀ (s : State) (a b : Bytes), (a ++ b).length < 2 ^ 32 →
    ∃ t u v w : State, exec .crcInit s = .next t ∧ exec (.crcUpdate a) t = .next u ∧ exec (.crcUpdate b) u = .next v ∧
      exec (.crc16 (a ++ b) 0 (BitVec.ofNat 32 (a ++ b).length)) v = .next w ∧
      w.responses = v.responses ++ [okResponse [be16 v.crc]]

/-- R71: any single-bit flip in the covered range changes the CRC. -/
def Obligations.CrcDetectsSingleBitFlip : Prop :=
  ∀ (data : Bytes) (start stop i j : Nat), start ≤ i → i < stop → stop ≤ data.length → j < 8 →
    crc16 (data.set i (data.getD i 0 ^^^ BitVec.ofNat 8 (2 ^ j))) start stop ≠ crc16 data start stop

/-! ### U2, the frame codec (41_frame_codec.md) -/

/-- R58, R72: FRAME_ENCODE completes with the request frame, field by field at its offset, its checksum over every
preceding byte. -/
def Obligations.FrameEncodeLayout : Prop :=
  ∀ (s : State) (mt : Half) (cid pk iv p : Bytes),
    cid.length = 16 → pk.length = 32 → iv.length = 16 → p.length < 2 ^ 32 →
    ∃ f : Bytes, exec (.frameEncode mt cid pk iv p) s = .next (afterOk s [f]) ∧
      f.length = 72 + p.length ∧
      slice f 0 2 = be16 mt ∧ slice f 2 18 = cid ∧ slice f 18 50 = pk ∧ slice f 50 66 = iv ∧
      slice f 66 70 = be32 (BitVec.ofNat 32 p.length) ∧ slice f 70 (70 + p.length) = p ∧
      slice f (70 + p.length) (72 + p.length) = be16 (crc16 f 0 (70 + p.length))

/-- R74: DEC_FEED completes with OK where the decoder is open, with the loop's events as outputs, and changes the decoder's
state only; an empty chunk changes nothing; CLOSED and FAULTED refuse every chunk. -/
def Obligations.DecFeedResult : Prop :=
  ∀ (s : State) (chunk : Bytes),
    (DecoderOpen s → ∃ (d : DState) (buf : Bytes) (len : Word) (events : List Bytes),
      feedBytes s chunk = ({ s with dstate := d, dbuf := buf, dlen := len }, events) ∧
      exec (.decFeed chunk) s = .next (afterOk { s with dstate := d, dbuf := buf, dlen := len } events)) ∧
    (DecoderOpen s → exec (.decFeed []) s = .next (afterOk s [])) ∧
    (s.dstate = .closed → exec (.decFeed chunk) s = .next (afterError s 0x08 0x02)) ∧
    (s.dstate = .faulted → exec (.decFeed chunk) s = .next (afterError s 0x09 0x00))

/-- R81: consecutive DEC_FEED commands for any split of a byte stream into chunks, each run by `exec` in the state that
the one before it left, all complete, and so does one DEC_FEED of the whole stream; the concatenation of the event lists
that their responses carry is the event list of that one response, and the last states agree in every field but the status
and the responses. Feeds refused in CLOSED or FAULTED are included: they carry no event. -/
def Obligations.ChunkSplitIndependent : Prop :=
  ∀ (s : State) (chunks : List Bytes), ∃ (t u : State) (rs : List Bytes) (r : Bytes) (events : List (List Bytes)),
    runFeeds s chunks = .next t ∧ exec (.decFeed chunks.flatten) s = .next u ∧
    t.responses = s.responses ++ rs ∧ u.responses = s.responses ++ [r] ∧
    List.Forall₂ CarriesEvents rs events ∧ CarriesEvents r events.flatten ∧
    t = { u with lastStatus := t.lastStatus, lastSub := t.lastSub, responses := t.responses }

/-- R76, R77, R82, R85: a response frame with a correct checksum, for every payloadLength up to `maxpay`, fed to a decoder at
a frame boundary, gives one FRAME event whose fields are the frame's, and leaves the decoder at the boundary. -/
def Obligations.ResponseFrameRoundTrip : Prop :=
  ∀ (s : State) (f : ResponseFrame), s.dstate = .awaitHeader → s.dbuf = [] → s.dlen = 0 → f.wellFormed = true →
    f.payload.length ≤ s.maxpay.toNat →
    ∃ ev : Bytes, exec (.decFeed (responseFrame f)) s = .next (afterOk s [ev]) ∧
      ev = [0x00, 0x00] ++ responseFrame f ∧ parseFrameEvent ev = f

/-- R77, R79: a frame with a payload and a wrong checksum gives one INTEGRITY event, with the frame as received and the CRC
computed, and the decoder resumes at the next byte. -/
def Obligations.WrongChecksumReported : Prop :=
  ∀ (s : State) (f : ResponseFrame) (rx : Half), s.dstate = .awaitHeader → s.dbuf = [] → s.dlen = 0 →
    f.wellFormed = true → f.payload.length ≤ s.maxpay.toNat → f.payload ≠ [] →
    rx ≠ crc16 (responseBody f) 0 (responseBody f).length →
    exec (.decFeed (responseBody f ++ be16 rx)) s =
      .next (afterOk s
        [[0x03, 0x00] ++ (responseBody f ++ be16 rx) ++ be16 (crc16 (responseBody f) 0 (responseBody f).length)])

/-- R78: a frame whose payloadLength is 0 is emitted as FRAME whatever its checksum bytes hold. -/
def Obligations.ZeroLengthFrameUnchecked : Prop :=
  ∀ (s : State) (f : ResponseFrame) (rx : Half), s.dstate = .awaitHeader → s.dbuf = [] → s.dlen = 0 →
    f.wellFormed = true → f.payload = [] →
    exec (.decFeed (responseBody f ++ be16 rx)) s = .next (afterOk s [[0x00, 0x00] ++ (responseBody f ++ be16 rx)])

/-- R76, R80, R157: a header whose payloadLength is above the cap gives one LENGTH event with the header, leaves the decoder
FAULTED and empty, and the rest of the chunk is discarded; the status is OK. -/
def Obligations.LengthFaultDiscardsRest : Prop :=
  ∀ (s : State) (header rest : Bytes), s.dstate = .awaitHeader → s.dbuf = [] → header.length = 72 →
    s.maxpay.toNat < (u32be (header.drop 68)).toNat →
    exec (.decFeed (header ++ rest)) s =
      .next (afterOk { s with dstate := .faulted, dbuf := [], dlen := 0 } [[0x04, 0x03] ++ header])

/-- R83: DEC_EOS: its descriptor; it always reports ERR_CLOSED, with the sub-code of the state before, and leaves the
decoder CLOSED and empty. -/
def Obligations.DecEosResult : Prop :=
  encode .decEos = [0x22, 0x00, 0x00, 0x00] ∧
  ∀ s : State,
    (s.dstate = .closed → exec .decEos s =
      .next (afterError { s with dstate := .closed, dbuf := [], dlen := 0 } 0x08 0x02)) ∧
    (s.dstate = .faulted → exec .decEos s =
      .next (afterError { s with dstate := .closed, dbuf := [], dlen := 0 } 0x08 0x03)) ∧
    (DecoderOpen s → s.dbuf ≠ [] → exec .decEos s =
      .next (afterError { s with dstate := .closed, dbuf := [], dlen := 0 } 0x08 0x01)) ∧
    (DecoderOpen s → s.dbuf = [] → exec .decEos s =
      .next (afterError { s with dstate := .closed, dbuf := [], dlen := 0 } 0x08 0x00))

/-- R84: DEC_RESET: its descriptor; from every decoder state it restarts the decoder and changes nothing else. -/
def Obligations.DecResetResult : Prop :=
  encode .decReset = [0x23, 0x00, 0x00, 0x00] ∧
  (∀ s : State, exec .decReset s = .next (afterOk { s with dstate := .awaitHeader, dbuf := [], dlen := 0 } [])) ∧
  (∀ s t : State, s.dstate = .closed → exec .decReset s = .next t → t.dstate.code = 0)

/-- R80, R83, R167: CLOSED is left only by DEC_RESET and SOFT_RESET, FAULTED only by these and, to CLOSED, by DEC_EOS. -/
def Obligations.StickyDecoderStates : Prop :=
  ∀ (i : Instr) (s t : State), exec i s = .next t → i ≠ .decReset → i ≠ .softReset →
    (s.dstate = .closed → t.dstate = .closed) ∧
    (s.dstate = .faulted → i ≠ .decEos → t.dstate = .faulted) ∧
    (s.dstate = .faulted → i = .decEos → t.dstate = .closed)

/-! ### U3, AES-128-CBC (42_aes_cbc.md) -/

/-- R88-R90: the S-box table is the affine image of the inverse in GF(2^8), and the inverse table undoes it. -/
def Obligations.SboxIsAffineInverse : Prop :=
  ∀ b : Byte, invSbox (sbox b) = b ∧
    ∃ q : Byte, ((b = 0 ∧ q = 0) ∨ (b ≠ 0 ∧ gmul q b = 0x01)) ∧
      sbox b = q ^^^ q.rotateLeft 1 ^^^ q.rotateLeft 2 ^^^ q.rotateLeft 3 ^^^ q.rotateLeft 4 ^^^ 0x63

/-- R97: the inverse cipher undoes the cipher, for every key and block. -/
def Obligations.AesDecryptInvertsEncrypt : Prop :=
  ∀ key block : Bytes, key.length = 16 → block.length = 16 → aesDecrypt key (aesEncrypt key block) = block

/-- R99, R100: AES_CBC_ENC completes with `CBC_ENC(key, iv, plaintext)`, of 16·(⌊len/16⌋ + 1) bytes. -/
def Obligations.AesCbcEncResult : Prop :=
  ∀ (s : State) (key iv p : Bytes), key.length = 16 → iv.length = 16 →
    exec (.aesCbcEnc key iv p) s = .next (afterOk s [cbcEnc key iv p]) ∧
      (cbcEnc key iv p).length = 16 * (p.length / 16 + 1)

/-- R99, R101, R102: AES_CBC_DEC of a ciphertext that AES_CBC_ENC made returns the plaintext, the empty one included. -/
def Obligations.AesCbcRoundTrip : Prop :=
  ∀ (s : State) (key iv p : Bytes), key.length = 16 → iv.length = 16 →
    exec (.aesCbcDec key iv (cbcEnc key iv p)) s = .next (afterOk s [p])

/-- R101, R102: where AES_CBC_DEC reports an error: the ciphertext's length first, then the value of the last decrypted
byte, then the pad bytes. -/
def Obligations.AesCbcDecErrors : Prop :=
  ∀ (s : State) (key iv c : Bytes),
    ((c.length = 0 ∨ c.length % 16 ≠ 0) → exec (.aesCbcDec key iv c) s = .next (afterError s 0x05 0x01)) ∧
    (∀ (m : Bytes) (last : Byte), c.length ≠ 0 → c.length % 16 = 0 →
      cbcDecBlocks key iv (aesBlocks c) = m ++ [last] →
      ((last.toNat < 1 ∨ 16 < last.toNat) → exec (.aesCbcDec key iv c) s = .next (afterError s 0x05 0x02)) ∧
      (1 ≤ last.toNat → last.toNat ≤ 16 →
        (m ++ [last]).drop ((m ++ [last]).length - last.toNat) ≠ List.replicate last.toNat last →
        exec (.aesCbcDec key iv c) s = .next (afterError s 0x05 0x03)))

/-! ### U6 and U7, SHA-256, HMAC and HKDF (43_sha256_hmac_hkdf.md) -/

/-- R106: the padded message is the message, 0x80, the least number of zero bytes that fills a 64-byte block, and the bit
count. -/
def Obligations.ShaPadding : Prop :=
  ∀ m : Bytes, m.length < 2 ^ 61 → ∃ k : Nat,
    shaPad m = m ++ [0x80] ++ List.replicate k 0x00 ++ be64 (BitVec.ofNat 64 (8 * m.length)) ∧
      (m.length + 1 + k + 8) % 64 = 0 ∧ (∀ k' < k, (m.length + 1 + k' + 8) % 64 ≠ 0)

/-- R108-R111: HMAC_SHA256 and HKDF_EXTRACT complete with `HMAC` of their operands, 32 bytes, the salt as the key. -/
def Obligations.HmacAndExtractResult : Prop :=
  ∀ (s : State) (key msg : Bytes),
    exec (.hmacSha256 key msg) s = .next (afterOk s [hmac key msg]) ∧
    exec (.hkdfExtract key msg) s = .next (afterOk s [hmac key msg]) ∧ (hmac key msg).length = 32

/-- R108, R110: zero bytes appended to a key, up to 64 bytes, change no HMAC; so the empty salt is 32 zero bytes. -/
def Obligations.HmacZeroFill : Prop :=
  (∀ (key msg : Bytes) (k : Nat), key.length + k ≤ 64 → hmac (key ++ List.replicate k 0x00) msg = hmac key msg) ∧
  (∀ ikm : Bytes, hkdfExtract [] ikm = hkdfExtract (List.replicate 32 0x00) ikm)

/-- R112, R113: HKDF_EXPAND completes with `L` bytes for L from 1 to 8160, and raises ERR_LENGTH(HKDF_L) otherwise. -/
def Obligations.HkdfExpandResult : Prop :=
  ∀ (s : State) (prk info : Bytes) (len : Half),
    (1 ≤ len.toNat → len.toNat ≤ 8160 →
      exec (.hkdfExpand prk info len) s = .next (afterOk s [hkdfExpand prk info len.toNat]) ∧
        (hkdfExpand prk info len.toNat).length = len.toNat) ∧
    ((len.toNat < 1 ∨ 8160 < len.toNat) → exec (.hkdfExpand prk info len) s = .next (afterError s 0x04 0x01))

/-- R112: the output for a length is a prefix of the output for any larger one. -/
def Obligations.HkdfExpandPrefix : Prop :=
  ∀ (prk info : Bytes) (l l' : Nat), l ≤ l' → hkdfExpand prk info l = (hkdfExpand prk info l').take l

/-! ### U5, ECDH on secp256k1 (44_ecdh_secp256k1.md) -/

/-- R118: what `lift_x` returns is a point of the curve with the given x and an even y. -/
def Obligations.LiftXOnCurve : Prop :=
  ∀ (x : Nat) (pt : Point), liftX x = .ok pt →
    ∃ y : Nat, pt = .affine x y ∧ x < curveP ∧ y < curveP ∧ y % 2 = 0 ∧
      (y * y) % curveP = (x * x * x + 7) % curveP

/-- R119-R121: ECDH_X completes with the x-coordinate of d·P, 32 bytes, for a valid scalar and point; the scalar is checked
before the point. -/
def Obligations.EcdhResult : Prop :=
  ∀ (s : State) (d x : Bytes),
    (∀ pt : Point, 1 ≤ intBe d → intBe d < curveN → liftX (intBe x) = .ok pt →
      exec (.ecdhX d x) s = .next (afterOk s [pointX (scalarMul (intBe d) pt)]) ∧
        (pointX (scalarMul (intBe d) pt)).length = 32) ∧
    ((intBe d = 0 ∨ curveN ≤ intBe d) → exec (.ecdhX d x) s = .next (afterError s 0x07 0x01)) ∧
    (∀ e : CmdError, 1 ≤ intBe d → intBe d < curveN → liftX (intBe x) = .error e →
      exec (.ecdhX d x) s = .next (afterError s 0x07 0x02))

/-- R121: the scalar 1 returns the remote x itself. -/
def Obligations.EcdhScalarOne : Prop :=
  ∀ (s : State) (x : Bytes) (pt : Point), x.length = 32 → liftX (intBe x) = .ok pt →
    exec (.ecdhX (List.replicate 31 0x00 ++ [0x01]) x) s = .next (afterOk s [x])

/-- R122: the shared x does not depend on which of the two points over an x is taken. -/
def Obligations.EcdhParityIndependent : Prop :=
  ∀ d x y : Nat, x < curveP → 0 < y → y < curveP →
    pointX (scalarMul d (.affine x y)) = pointX (scalarMul d (.affine x (curveP - y)))

/-! ### U4, ChaCha20 (45_chacha20.md) -/

/-- R126-R128: CHACHA20 completes with `CHACHA20(key, nonce, counter, data)`, of as many bytes as the data, unless a block
counter would pass 0xFFFFFFFF. -/
def Obligations.Chacha20Result : Prop :=
  ∀ (s : State) (key nonce data : Bytes) (ctr : Word),
    ((data = [] ∨ ctr.toNat + (data.length + 63) / 64 ≤ 2 ^ 32) →
      ∃ out : Bytes, chacha20 key nonce ctr data = .ok out ∧
        exec (.chacha20 key nonce ctr data) s = .next (afterOk s [out]) ∧ out.length = data.length) ∧
    ((data ≠ [] ∧ 2 ^ 32 < ctr.toNat + (data.length + 63) / 64) →
      exec (.chacha20 key nonce ctr data) s = .next (afterError s 0x04 0x02))

/-- R126: the command is its own inverse. -/
def Obligations.Chacha20SelfInverse : Prop :=
  ∀ (key nonce m c : Bytes) (ctr : Word), chacha20 key nonce ctr m = .ok c → chacha20 key nonce ctr c = .ok m

/-! ### U8, NIP-44 (46_nip44.md) -/

/-- R129, R130: strict base64 reads back what it wrote, 4·⌈len/3⌉ characters. -/
def Obligations.Base64RoundTrip : Prop :=
  ∀ b : Bytes, base64Decode (base64Encode b) = .ok b ∧ (base64Encode b).length = 4 * ((b.length + 2) / 3)

/-- R130: B64DEC accepts no other text: every text that it accepts is the one that B64ENC writes. -/
def Obligations.Base64AcceptsOnlyEncoded : Prop :=
  ∀ t b : Bytes, base64Decode t = .ok b → base64Encode b = t

/-- R131, R138: the padded length is a multiple of 32 that holds the plaintext, non-decreasing, between 32 and 65536. -/
def Obligations.PaddedLengthBounds : Prop :=
  ∀ l : Nat, 1 ≤ l → l ≤ 65535 →
    l ≤ calcPaddedLen l ∧ 32 ≤ calcPaddedLen l ∧ calcPaddedLen l ≤ 65536 ∧ calcPaddedLen l % 32 = 0 ∧
      ∀ l' : Nat, l ≤ l' → l' ≤ 65535 → calcPaddedLen l ≤ calcPaddedLen l'

/-- R64, R135, R136: NIP44_CONVKEY completes with what ECDH_X and then HKDF_EXTRACT with the salt "nip44-v2" give, and with
ECDH_X's error where that has one. -/
def Obligations.ConvkeyIsEcdhThenExtract : Prop :=
  ∀ (s : State) (d x : Bytes),
    (∀ pt : Point, 1 ≤ intBe d → intBe d < curveN → liftX (intBe x) = .ok pt →
      exec (.nip44Convkey d x) s =
        .next (afterOk s [hmac [0x6E, 0x69, 0x70, 0x34, 0x34, 0x2D, 0x76, 0x32] (pointX (scalarMul (intBe d) pt))])) ∧
    ((intBe d = 0 ∨ curveN ≤ intBe d) → exec (.nip44Convkey d x) s = .next (afterError s 0x07 0x01)) ∧
    (∀ e : CmdError, 1 ≤ intBe d → intBe d < curveN → liftX (intBe x) = .error e →
      exec (.nip44Convkey d x) s = .next (afterError s 0x07 0x02))

/-- R137-R139: NIP44_ENCRYPT completes on every plaintext of 1 to 65535 bytes with `NIP44_ENC(ck, nonce, plaintext)`, a text
within the source's bounds, and raises ERR_ENVELOPE(PLAINTEXT_LEN) on every other. -/
def Obligations.Nip44EncryptResult : Prop :=
  ∀ (s : State) (ck nonce p : Bytes), nonce.length = 32 →
    (1 ≤ p.length → p.length ≤ 65535 →
      ∃ out : Bytes, nip44Enc ck nonce p = .ok out ∧ exec (.nip44Encrypt ck nonce p) s = .next (afterOk s [out]) ∧
        out.length = 4 * ((67 + calcPaddedLen p.length + 2) / 3) ∧ 132 ≤ out.length ∧ out.length ≤ 87472) ∧
    ((p.length < 1 ∨ 65535 < p.length) → exec (.nip44Encrypt ck nonce p) s = .next (afterError s 0x06 0x01))

/-- R143: NIP44_DECRYPT of the text that NIP44_ENCRYPT emitted under the same key returns the plaintext, in whatever states
the two commands run. R140, R142: it returns the plaintext of every envelope with the right MAC whose padded text has a
legal length prefix and the bucket length of it, whatever the pad bytes are. -/
def Obligations.Nip44RoundTrip : Prop :=
  (∀ (s u : State) (ck nonce p : Bytes), nonce.length = 32 → 1 ≤ p.length → p.length ≤ 65535 →
    ∃ out : Bytes, exec (.nip44Encrypt ck nonce p) s = .next (afterOk s [out]) ∧
      exec (.nip44Decrypt ck out) u = .next (afterOk u [p])) ∧
  (∀ (s : State) (ck nonce p pad ct : Bytes), nonce.length = 32 → 1 ≤ p.length → p.length ≤ 65535 →
    p.length + pad.length = calcPaddedLen p.length →
    chacha20 (messageKeys ck nonce).streamKey (messageKeys ck nonce).streamNonce 0
      (be16 (BitVec.ofNat 16 p.length) ++ p ++ pad) = .ok ct →
    exec (.nip44Decrypt ck
        (base64Encode (0x02 :: nonce ++ ct ++ hmac (messageKeys ck nonce).macKey (nonce ++ ct)))) s =
      .next (afterOk s [p]))

/-- R140, R174: a text of legal length whose MAC is not the one of its nonce and ciphertext is refused with
ERR_ENVELOPE(MAC): nothing is decrypted. -/
def Obligations.Nip44WrongMacRefused : Prop :=
  ∀ (s : State) (ck nonce ct mac : Bytes), nonce.length = 32 → mac.length = 32 → 34 ≤ ct.length → ct.length ≤ 65538 →
    hmac (slice (hkdfExpand ck nonce 76) 44 76) (nonce ++ ct) ≠ mac →
    exec (.nip44Decrypt ck (base64Encode (0x02 :: nonce ++ ct ++ mac))) s = .next (afterError s 0x06 0x06)
end

