-- ==== Sys2Proof/Laws/Bytes.lean ====
section
/-! SUPPORT. The laws of byte strings and byte order (00_scope.md R9): lengths, and reading what was written. -/

namespace Sys2Proof.Machine

@[simp] theorem length_zeros (n : Nat) : (zeros n).length = n := List.length_replicate

@[simp] theorem length_rep (v : Byte) (n : Nat) : (rep v n).length = n := List.length_replicate

@[simp] theorem length_be16 (v : Half) : (be16 v).length = 2 := rfl

@[simp] theorem length_be32 (v : Word) : (be32 v).length = 4 := rfl

@[simp] theorem length_be64 (v : BitVec 64) : (be64 v).length = 8 := rfl

@[simp] theorem length_le32 (v : Word) : (le32 v).length = 4 := rfl

theorem length_slice (b : Bytes) (i j : Nat) : (slice b i j).length = min (j - i) (b.length - i) := by
  simp [slice]

theorem length_xorBytes (a b : Bytes) : (xorBytes a b).length = min a.length b.length := by
  simp [xorBytes]

@[simp] theorem length_beNat (k v : Nat) : (beNat k v).length = k := by
  induction k generalizing v with
  | zero => rfl
  | succ k ih => simp [beNat, ih]

@[simp] theorem length_lengthPrefixed (b : Bytes) : (lengthPrefixed b).length = 4 + b.length := by
  simp [lengthPrefixed]

/-- The bytes of a u16, joined, are it. -/
theorem join_halfBytes (v : Half) : v.extractLsb' 8 8 ++ v.extractLsb' 0 8 = v := by
  apply BitVec.eq_of_getElem_eq
  intro i hi
  simp only [BitVec.getElem_append, BitVec.getElem_extractLsb']
  split
  · simp [BitVec.getLsbD_eq_getElem hi]
  · simp [show 8 + (i - 8) = i by omega, BitVec.getLsbD_eq_getElem hi]

/-- The bytes of a u32, joined, are it. -/
theorem join_wordBytes (v : Word) :
    v.extractLsb' 24 8 ++ v.extractLsb' 16 8 ++ v.extractLsb' 8 8 ++ v.extractLsb' 0 8 = v := by
  apply BitVec.eq_of_getElem_eq
  intro i hi
  simp only [BitVec.getElem_append, BitVec.getElem_extractLsb']
  split
  · simp [BitVec.getLsbD_eq_getElem hi]
  · split
    · simp [show 8 + (i - 8) = i by omega, BitVec.getLsbD_eq_getElem hi]
    · split
      · simp [show 16 + (i - 8 - 8) = i by omega, BitVec.getLsbD_eq_getElem hi]
      · simp [show 24 + (i - 8 - 8 - 8) = i by omega, BitVec.getLsbD_eq_getElem hi]

/-- A u16 is read back from its big-endian bytes, whatever follows them. -/
theorem u16be_be16_append (v : Half) (rest : Bytes) : u16be (be16 v ++ rest) = v := join_halfBytes v

@[simp] theorem u16be_be16 (v : Half) : u16be (be16 v) = v := join_halfBytes v

/-- A u32 is read back from its big-endian bytes, whatever follows them. -/
theorem u32be_be32_append (v : Word) (rest : Bytes) : u32be (be32 v ++ rest) = v := join_wordBytes v

/-- The low part of a joined value. -/
theorem extract_append_low {n m : Nat} (x : BitVec n) (y : BitVec m) : (x ++ y).extractLsb' 0 m = y := by
  apply BitVec.eq_of_getElem_eq
  intro i hi
  rw [BitVec.getElem_extractLsb', BitVec.getLsbD_append, Nat.zero_add, if_pos hi,
    BitVec.getLsbD_eq_getElem hi]

/-- A part above the low part of a joined value. -/
theorem extract_append_high {n m : Nat} (x : BitVec n) (y : BitVec m) (k len : Nat) :
    (x ++ y).extractLsb' (m + k) len = x.extractLsb' k len := by
  apply BitVec.eq_of_getElem_eq
  intro i hi
  rw [BitVec.getElem_extractLsb', BitVec.getElem_extractLsb', BitVec.getLsbD_append,
    if_neg (by omega), show m + k + i - m = k + i by omega]

/-- The big-endian bytes of a u16 that was read from two bytes are those bytes. -/
theorem be16_u16be (a b : Byte) (rest : Bytes) : be16 (u16be (a :: b :: rest)) = [a, b] := by
  have ha : (a ++ b).extractLsb' 8 8 = a :=
    (extract_append_high a b 0 8).trans BitVec.extractLsb'_eq_self
  have hb : (a ++ b).extractLsb' 0 8 = b := extract_append_low a b
  show [(a ++ b).extractLsb' 8 8, (a ++ b).extractLsb' 0 8] = [a, b]
  rw [ha, hb]

/-- The big-endian bytes of a u32 that was read from four bytes are those bytes. -/
theorem be32_u32be (a b c d : Byte) (rest : Bytes) : be32 (u32be (a :: b :: c :: d :: rest)) = [a, b, c, d] := by
  have h24 : (a ++ b ++ c ++ d).extractLsb' 24 8 = a :=
    ((extract_append_high (a ++ b ++ c) d 16 8).trans (extract_append_high (a ++ b) c 8 8)).trans
      ((extract_append_high a b 0 8).trans BitVec.extractLsb'_eq_self)
  have h16 : (a ++ b ++ c ++ d).extractLsb' 16 8 = b :=
    ((extract_append_high (a ++ b ++ c) d 8 8).trans (extract_append_high (a ++ b) c 0 8)).trans
      (extract_append_low a b)
  have h8 : (a ++ b ++ c ++ d).extractLsb' 8 8 = c :=
    (extract_append_high (a ++ b ++ c) d 0 8).trans (extract_append_low (a ++ b) c)
  have h0 : (a ++ b ++ c ++ d).extractLsb' 0 8 = d := extract_append_low (a ++ b ++ c) d
  show [(a ++ b ++ c ++ d).extractLsb' 24 8, (a ++ b ++ c ++ d).extractLsb' 16 8,
    (a ++ b ++ c ++ d).extractLsb' 8 8, (a ++ b ++ c ++ d).extractLsb' 0 8] = [a, b, c, d]
  rw [h24, h16, h8, h0]

@[simp] theorem u32be_be32 (v : Word) : u32be (be32 v) = v := join_wordBytes v

/-- A byte string of at least four bytes, taken apart. -/
theorem exists_four_cons {l : Bytes} (h : 4 ≤ l.length) : ∃ a b c d tl, l = a :: b :: c :: d :: tl := by
  rcases l with _ | ⟨a, _ | ⟨b, _ | ⟨c, _ | ⟨d, tl⟩⟩⟩⟩
  · simp at h
  · simp at h
  · simp at h
  · simp at h
  · exact ⟨a, b, c, d, tl, rfl⟩

/-- The first four bytes of a byte string are the big-endian bytes of the u32 it starts with. -/
theorem be32_u32be_append_drop {l : Bytes} (h : 4 ≤ l.length) : be32 (u32be l) ++ l.drop 4 = l := by
  obtain ⟨a, b, c, d, tl, rfl⟩ := exists_four_cons h
  rw [be32_u32be]
  rfl

/-- A length below 2^32 is the number that its field holds. -/
theorem toNat_length32 {n : Nat} (h : n < 2 ^ 32) : (length32 n).toNat = n := by
  simp only [length32, h, if_true, BitVec.toNat_ofNat]
  exact Nat.mod_eq_of_lt h

/-- A count below 2^16 is the number that its field holds. -/
theorem toNat_count16 {n : Nat} (h : n < 2 ^ 16) : (count16 n).toNat = n := by
  simp only [count16, h, if_true, BitVec.toNat_ofNat]
  exact Nat.mod_eq_of_lt h

/-- The pieces of a byte string, joined, are its first `n · k` bytes. -/
theorem chunksOf_flatten (n k : Nat) (b : Bytes) : (chunksOf n k b).flatten = b.take (n * k) := by
  induction k generalizing b with
  | zero => simp [chunksOf]
  | succ k ih => rw [chunksOf, List.flatten_cons, ih, Nat.mul_succ, Nat.add_comm, List.take_add]

@[simp] theorem length_chunksOf (n k : Nat) (b : Bytes) : (chunksOf n k b).length = k := by
  induction k generalizing b with
  | zero => rfl
  | succ k ih => simp [chunksOf, ih]

end Sys2Proof.Machine
end

