-- ==== Sys2Proof/Laws/State.lean ====
section
/-! SUPPORT. The field lemmas of State: what each named update makes of each field, true by definition, so that no later
proof unfolds a record update. -/

namespace Sys2Proof.Machine

variable (s : State)

@[simp] theorem State.withCrc_cfg (v : Half) : (s.withCrc v).cfg = s.cfg := rfl
@[simp] theorem State.withCrc_crc (v : Half) : (s.withCrc v).crc = v := rfl
@[simp] theorem State.withCrc_dstate (v : Half) : (s.withCrc v).dstate = s.dstate := rfl
@[simp] theorem State.withCrc_dbuf (v : Half) : (s.withCrc v).dbuf = s.dbuf := rfl
@[simp] theorem State.withCrc_dlen (v : Half) : (s.withCrc v).dlen = s.dlen := rfl
@[simp] theorem State.withCrc_maxpay (v : Half) : (s.withCrc v).maxpay = s.maxpay := rfl
@[simp] theorem State.withCrc_lastStatus (v : Half) : (s.withCrc v).lastStatus = s.lastStatus := rfl
@[simp] theorem State.withCrc_lastSub (v : Half) : (s.withCrc v).lastSub = s.lastSub := rfl
@[simp] theorem State.withCrc_pending (v : Half) : (s.withCrc v).pending = s.pending := rfl
@[simp] theorem State.withCrc_responses (v : Half) : (s.withCrc v).responses = s.responses := rfl

@[simp] theorem State.withMaxpay_cfg (v : Word) : (s.withMaxpay v).cfg = s.cfg := rfl
@[simp] theorem State.withMaxpay_crc (v : Word) : (s.withMaxpay v).crc = s.crc := rfl
@[simp] theorem State.withMaxpay_dstate (v : Word) : (s.withMaxpay v).dstate = s.dstate := rfl
@[simp] theorem State.withMaxpay_dbuf (v : Word) : (s.withMaxpay v).dbuf = s.dbuf := rfl
@[simp] theorem State.withMaxpay_dlen (v : Word) : (s.withMaxpay v).dlen = s.dlen := rfl
@[simp] theorem State.withMaxpay_maxpay (v : Word) : (s.withMaxpay v).maxpay = v := rfl
@[simp] theorem State.withMaxpay_lastStatus (v : Word) : (s.withMaxpay v).lastStatus = s.lastStatus := rfl
@[simp] theorem State.withMaxpay_lastSub (v : Word) : (s.withMaxpay v).lastSub = s.lastSub := rfl
@[simp] theorem State.withMaxpay_pending (v : Word) : (s.withMaxpay v).pending = s.pending := rfl
@[simp] theorem State.withMaxpay_responses (v : Word) : (s.withMaxpay v).responses = s.responses := rfl

@[simp] theorem State.withDecoder_cfg (d : DState) (b : Bytes) (n : Word) : (s.withDecoder d b n).cfg = s.cfg := rfl
@[simp] theorem State.withDecoder_crc (d : DState) (b : Bytes) (n : Word) : (s.withDecoder d b n).crc = s.crc := rfl
@[simp] theorem State.withDecoder_dstate (d : DState) (b : Bytes) (n : Word) : (s.withDecoder d b n).dstate = d := rfl
@[simp] theorem State.withDecoder_dbuf (d : DState) (b : Bytes) (n : Word) : (s.withDecoder d b n).dbuf = b := rfl
@[simp] theorem State.withDecoder_dlen (d : DState) (b : Bytes) (n : Word) : (s.withDecoder d b n).dlen = n := rfl
@[simp] theorem State.withDecoder_maxpay (d : DState) (b : Bytes) (n : Word) : (s.withDecoder d b n).maxpay = s.maxpay := rfl
@[simp] theorem State.withDecoder_lastStatus (d : DState) (b : Bytes) (n : Word) : (s.withDecoder d b n).lastStatus = s.lastStatus := rfl
@[simp] theorem State.withDecoder_lastSub (d : DState) (b : Bytes) (n : Word) : (s.withDecoder d b n).lastSub = s.lastSub := rfl
@[simp] theorem State.withDecoder_pending (d : DState) (b : Bytes) (n : Word) : (s.withDecoder d b n).pending = s.pending := rfl
@[simp] theorem State.withDecoder_responses (d : DState) (b : Bytes) (n : Word) : (s.withDecoder d b n).responses = s.responses := rfl

@[simp] theorem State.withStatus_cfg (st sub : Byte) : (s.withStatus st sub).cfg = s.cfg := rfl
@[simp] theorem State.withStatus_crc (st sub : Byte) : (s.withStatus st sub).crc = s.crc := rfl
@[simp] theorem State.withStatus_dstate (st sub : Byte) : (s.withStatus st sub).dstate = s.dstate := rfl
@[simp] theorem State.withStatus_dbuf (st sub : Byte) : (s.withStatus st sub).dbuf = s.dbuf := rfl
@[simp] theorem State.withStatus_dlen (st sub : Byte) : (s.withStatus st sub).dlen = s.dlen := rfl
@[simp] theorem State.withStatus_maxpay (st sub : Byte) : (s.withStatus st sub).maxpay = s.maxpay := rfl
@[simp] theorem State.withStatus_lastStatus (st sub : Byte) : (s.withStatus st sub).lastStatus = st := rfl
@[simp] theorem State.withStatus_lastSub (st sub : Byte) : (s.withStatus st sub).lastSub = sub := rfl
@[simp] theorem State.withStatus_pending (st sub : Byte) : (s.withStatus st sub).pending = s.pending := rfl
@[simp] theorem State.withStatus_responses (st sub : Byte) : (s.withStatus st sub).responses = s.responses := rfl

@[simp] theorem State.withResponse_cfg (r : Bytes) : (s.withResponse r).cfg = s.cfg := rfl
@[simp] theorem State.withResponse_crc (r : Bytes) : (s.withResponse r).crc = s.crc := rfl
@[simp] theorem State.withResponse_dstate (r : Bytes) : (s.withResponse r).dstate = s.dstate := rfl
@[simp] theorem State.withResponse_dbuf (r : Bytes) : (s.withResponse r).dbuf = s.dbuf := rfl
@[simp] theorem State.withResponse_dlen (r : Bytes) : (s.withResponse r).dlen = s.dlen := rfl
@[simp] theorem State.withResponse_maxpay (r : Bytes) : (s.withResponse r).maxpay = s.maxpay := rfl
@[simp] theorem State.withResponse_lastStatus (r : Bytes) : (s.withResponse r).lastStatus = s.lastStatus := rfl
@[simp] theorem State.withResponse_lastSub (r : Bytes) : (s.withResponse r).lastSub = s.lastSub := rfl
@[simp] theorem State.withResponse_pending (r : Bytes) : (s.withResponse r).pending = s.pending := rfl
@[simp] theorem State.withResponse_responses (r : Bytes) : (s.withResponse r).responses = s.responses ++ [r] := rfl

@[simp] theorem State.withPending_cfg (ds : List Bytes) : (s.withPending ds).cfg = s.cfg := rfl
@[simp] theorem State.withPending_crc (ds : List Bytes) : (s.withPending ds).crc = s.crc := rfl
@[simp] theorem State.withPending_dstate (ds : List Bytes) : (s.withPending ds).dstate = s.dstate := rfl
@[simp] theorem State.withPending_dbuf (ds : List Bytes) : (s.withPending ds).dbuf = s.dbuf := rfl
@[simp] theorem State.withPending_dlen (ds : List Bytes) : (s.withPending ds).dlen = s.dlen := rfl
@[simp] theorem State.withPending_maxpay (ds : List Bytes) : (s.withPending ds).maxpay = s.maxpay := rfl
@[simp] theorem State.withPending_lastStatus (ds : List Bytes) : (s.withPending ds).lastStatus = s.lastStatus := rfl
@[simp] theorem State.withPending_lastSub (ds : List Bytes) : (s.withPending ds).lastSub = s.lastSub := rfl
@[simp] theorem State.withPending_pending (ds : List Bytes) : (s.withPending ds).pending = ds := rfl
@[simp] theorem State.withPending_responses (ds : List Bytes) : (s.withPending ds).responses = s.responses := rfl

@[simp] theorem respond_cfg (st sub : Byte) (outs : List Bytes) : (respond s st sub outs).cfg = s.cfg := rfl
@[simp] theorem respond_crc (st sub : Byte) (outs : List Bytes) : (respond s st sub outs).crc = s.crc := rfl
@[simp] theorem respond_dstate (st sub : Byte) (outs : List Bytes) : (respond s st sub outs).dstate = s.dstate := rfl
@[simp] theorem respond_dbuf (st sub : Byte) (outs : List Bytes) : (respond s st sub outs).dbuf = s.dbuf := rfl
@[simp] theorem respond_dlen (st sub : Byte) (outs : List Bytes) : (respond s st sub outs).dlen = s.dlen := rfl
@[simp] theorem respond_maxpay (st sub : Byte) (outs : List Bytes) : (respond s st sub outs).maxpay = s.maxpay := rfl
@[simp] theorem respond_lastStatus (st sub : Byte) (outs : List Bytes) : (respond s st sub outs).lastStatus = st := rfl
@[simp] theorem respond_lastSub (st sub : Byte) (outs : List Bytes) : (respond s st sub outs).lastSub = sub := rfl
@[simp] theorem respond_pending (st sub : Byte) (outs : List Bytes) : (respond s st sub outs).pending = s.pending := rfl
@[simp] theorem respond_responses (st sub : Byte) (outs : List Bytes) : (respond s st sub outs).responses = s.responses ++ [responseBytes st sub outs] := rfl

@[simp] theorem complete_cfg (outs : List Bytes) : (complete s outs).cfg = s.cfg := rfl
@[simp] theorem complete_crc (outs : List Bytes) : (complete s outs).crc = s.crc := rfl
@[simp] theorem complete_dstate (outs : List Bytes) : (complete s outs).dstate = s.dstate := rfl
@[simp] theorem complete_dbuf (outs : List Bytes) : (complete s outs).dbuf = s.dbuf := rfl
@[simp] theorem complete_dlen (outs : List Bytes) : (complete s outs).dlen = s.dlen := rfl
@[simp] theorem complete_maxpay (outs : List Bytes) : (complete s outs).maxpay = s.maxpay := rfl
@[simp] theorem complete_lastStatus (outs : List Bytes) : (complete s outs).lastStatus = 0 := rfl
@[simp] theorem complete_lastSub (outs : List Bytes) : (complete s outs).lastSub = 0 := rfl
@[simp] theorem complete_pending (outs : List Bytes) : (complete s outs).pending = s.pending := rfl
@[simp] theorem complete_responses (outs : List Bytes) : (complete s outs).responses = s.responses ++ [responseBytes 0 0 outs] := rfl

@[simp] theorem raise_cfg (e : CmdError) : (raise s e).cfg = s.cfg := rfl
@[simp] theorem raise_crc (e : CmdError) : (raise s e).crc = s.crc := rfl
@[simp] theorem raise_dstate (e : CmdError) : (raise s e).dstate = s.dstate := rfl
@[simp] theorem raise_dbuf (e : CmdError) : (raise s e).dbuf = s.dbuf := rfl
@[simp] theorem raise_dlen (e : CmdError) : (raise s e).dlen = s.dlen := rfl
@[simp] theorem raise_maxpay (e : CmdError) : (raise s e).maxpay = s.maxpay := rfl
@[simp] theorem raise_lastStatus (e : CmdError) : (raise s e).lastStatus = e.status := rfl
@[simp] theorem raise_lastSub (e : CmdError) : (raise s e).lastSub = e.sub := rfl
@[simp] theorem raise_pending (e : CmdError) : (raise s e).pending = s.pending := rfl
@[simp] theorem raise_responses (e : CmdError) : (raise s e).responses = s.responses ++ [responseBytes e.status e.sub []] := rfl

@[simp] theorem resetDecoder_cfg : (resetDecoder s).cfg = s.cfg := rfl
@[simp] theorem resetDecoder_crc : (resetDecoder s).crc = s.crc := rfl
@[simp] theorem resetDecoder_dstate : (resetDecoder s).dstate = .awaitHeader := rfl
@[simp] theorem resetDecoder_dbuf : (resetDecoder s).dbuf = [] := rfl
@[simp] theorem resetDecoder_dlen : (resetDecoder s).dlen = 0 := rfl
@[simp] theorem resetDecoder_maxpay : (resetDecoder s).maxpay = s.maxpay := rfl
@[simp] theorem resetDecoder_lastStatus : (resetDecoder s).lastStatus = s.lastStatus := rfl
@[simp] theorem resetDecoder_lastSub : (resetDecoder s).lastSub = s.lastSub := rfl
@[simp] theorem resetDecoder_pending : (resetDecoder s).pending = s.pending := rfl
@[simp] theorem resetDecoder_responses : (resetDecoder s).responses = s.responses := rfl

@[simp] theorem resetRecord_cfg : (resetRecord s).cfg = s.cfg := rfl
@[simp] theorem resetRecord_crc : (resetRecord s).crc = 0xFFFF := rfl
@[simp] theorem resetRecord_dstate : (resetRecord s).dstate = .awaitHeader := rfl
@[simp] theorem resetRecord_dbuf : (resetRecord s).dbuf = [] := rfl
@[simp] theorem resetRecord_dlen : (resetRecord s).dlen = 0 := rfl
@[simp] theorem resetRecord_maxpay : (resetRecord s).maxpay = s.cfg.payloadBufMax := rfl
@[simp] theorem resetRecord_lastStatus : (resetRecord s).lastStatus = 0 := rfl
@[simp] theorem resetRecord_lastSub : (resetRecord s).lastSub = 0 := rfl
@[simp] theorem resetRecord_pending : (resetRecord s).pending = s.pending := rfl
@[simp] theorem resetRecord_responses : (resetRecord s).responses = s.responses := rfl

@[simp] theorem deliver_cfg (d : Bytes) : (deliver s d).cfg = s.cfg := rfl
@[simp] theorem deliver_crc (d : Bytes) : (deliver s d).crc = s.crc := rfl
@[simp] theorem deliver_dstate (d : Bytes) : (deliver s d).dstate = s.dstate := rfl
@[simp] theorem deliver_dbuf (d : Bytes) : (deliver s d).dbuf = s.dbuf := rfl
@[simp] theorem deliver_dlen (d : Bytes) : (deliver s d).dlen = s.dlen := rfl
@[simp] theorem deliver_maxpay (d : Bytes) : (deliver s d).maxpay = s.maxpay := rfl
@[simp] theorem deliver_lastStatus (d : Bytes) : (deliver s d).lastStatus = s.lastStatus := rfl
@[simp] theorem deliver_lastSub (d : Bytes) : (deliver s d).lastSub = s.lastSub := rfl
@[simp] theorem deliver_pending (d : Bytes) : (deliver s d).pending = s.pending ++ [d] := rfl
@[simp] theorem deliver_responses (d : Bytes) : (deliver s d).responses = s.responses := rfl

end Sys2Proof.Machine
end

