-- ==== Sys2Proof/Laws/Frame.lean ====
section
/-! SUPPORT. What one byte can do to the decoder, said once (41_frame_codec.md R75-R80), and what the decoder's loop keeps. -/

namespace Sys2Proof.Machine

/-- What a byte in AWAIT_HEADER can do: be buffered, complete a header that fits, or complete one above the cap. -/
theorem headerByte_cases (s : State) (b : Byte) :
    ((s.dbuf ++ [b]).length ≠ 72 ∧ headerByte s b = (s.withDecoder s.dstate (s.dbuf ++ [b]) s.dlen, [])) ∨
    ((s.dbuf ++ [b]).length = 72 ∧ s.maxpay < headerPayloadLength (s.dbuf ++ [b]) ∧
      headerByte s b = (s.withDecoder .faulted [] 0, [eventLength ++ (s.dbuf ++ [b])])) ∨
    ((s.dbuf ++ [b]).length = 72 ∧ ¬ s.maxpay < headerPayloadLength (s.dbuf ++ [b]) ∧
      headerByte s b =
        (s.withDecoder .awaitPayload (s.dbuf ++ [b]) (headerPayloadLength (s.dbuf ++ [b])), [])) := by
  by_cases h : (s.dbuf ++ [b]).length = 72
  · by_cases hm : s.maxpay < headerPayloadLength (s.dbuf ++ [b])
    · refine .inr (.inl ⟨h, hm, ?_⟩)
      simp only [headerByte, State.withDecoder_dbuf, h, if_true, headerComplete, State.withDecoder_maxpay, hm]
      rfl
    · refine .inr (.inr ⟨h, hm, ?_⟩)
      simp only [headerByte, State.withDecoder_dbuf, h, if_true, headerComplete, State.withDecoder_maxpay, hm, if_false]
      rfl
  · refine .inl ⟨h, ?_⟩
    simp only [headerByte, State.withDecoder_dbuf, h, if_false]

/-- What a byte in AWAIT_PAYLOAD can do: be buffered, or complete the frame. -/
theorem payloadByte_cases (s : State) (b : Byte) :
    ((s.dbuf ++ [b]).length ≠ 74 + s.dlen.toNat ∧
      payloadByte s b = (s.withDecoder s.dstate (s.dbuf ++ [b]) s.dlen, [])) ∨
    ((s.dbuf ++ [b]).length = 74 + s.dlen.toNat ∧
      payloadByte s b = (s.withDecoder .awaitHeader [] 0, [frameEvent (s.dbuf ++ [b]) s.dlen.toNat])) := by
  by_cases h : (s.dbuf ++ [b]).length = 74 + s.dlen.toNat
  · refine .inr ⟨h, ?_⟩
    simp only [payloadByte, State.withDecoder_dbuf, State.withDecoder_dlen, h, if_true, frameComplete]
    rfl
  · refine .inl ⟨h, ?_⟩
    simp only [payloadByte, State.withDecoder_dbuf, State.withDecoder_dlen, h, if_false]

/-- A byte changes the decoder's three fields only. -/
theorem feedByte_frame (s : State) (b : Byte) :
    (feedByte s b).1 =
      s.withDecoder (feedByte s b).1.dstate (feedByte s b).1.dbuf (feedByte s b).1.dlen := by
  unfold feedByte
  split
  · rcases headerByte_cases s b with ⟨_, h⟩ | ⟨_, _, h⟩ | ⟨_, _, h⟩ <;> rw [h] <;> rfl
  · rcases payloadByte_cases s b with ⟨_, h⟩ | ⟨_, h⟩ <;> rw [h] <;> rfl

/-- A chunk changes the decoder's three fields only. -/
theorem feedBytes_frame (s : State) (bs : Bytes) :
    (feedBytes s bs).1 =
      s.withDecoder (feedBytes s bs).1.dstate (feedBytes s bs).1.dbuf (feedBytes s bs).1.dlen := by
  induction bs generalizing s with
  | nil => rfl
  | cons b bs ih =>
    unfold feedBytes
    split
    · exact feedByte_frame s b
    · show (feedBytes (feedByte s b).1 bs).1 = _
      rw [ih (feedByte s b).1, feedByte_frame s b]
      rfl

/-- A byte's effect depends on neither the status nor the responses, and keeps both. -/
theorem feedByte_respond (s : State) (st sub : Byte) (outs : List Bytes) (b : Byte) :
    feedByte (respond s st sub outs) b = (respond (feedByte s b).1 st sub outs, (feedByte s b).2) := by
  have header : headerByte (respond s st sub outs) b = (respond (headerByte s b).1 st sub outs, (headerByte s b).2) := by
    rcases headerByte_cases s b with ⟨hl, h⟩ | ⟨hl, hm, h⟩ | ⟨hl, hm, h⟩ <;>
      rcases headerByte_cases (respond s st sub outs) b with ⟨kl, k⟩ | ⟨kl, km, k⟩ | ⟨kl, km, k⟩ <;>
      first | (rw [h, k]; rfl) | exact absurd hl kl | exact absurd kl hl | exact absurd hm km | exact absurd km hm
  have payload : payloadByte (respond s st sub outs) b = (respond (payloadByte s b).1 st sub outs, (payloadByte s b).2) := by
    rcases payloadByte_cases s b with ⟨hl, h⟩ | ⟨hl, h⟩ <;>
      rcases payloadByte_cases (respond s st sub outs) b with ⟨kl, k⟩ | ⟨kl, k⟩ <;>
      first | (rw [h, k]; rfl) | exact absurd hl kl | exact absurd kl hl
  have hd : (respond s st sub outs).dstate = s.dstate := rfl
  simp only [feedByte, hd]
  split
  · exact header
  · exact payload

/-- A chunk's effect depends on neither the status nor the responses, and keeps both. -/
theorem feedBytes_respond (s : State) (st sub : Byte) (outs : List Bytes) (bs : Bytes) :
    feedBytes (respond s st sub outs) bs = (respond (feedBytes s bs).1 st sub outs, (feedBytes s bs).2) := by
  induction bs generalizing s with
  | nil => rfl
  | cons b bs ih =>
    have hd : (respond (feedByte s b).1 st sub outs).dstate = (feedByte s b).1.dstate := rfl
    simp only [feedBytes, feedByte_respond, hd]
    split
    · rfl
    · rw [ih]

/-- The loop over two byte strings: the second is discarded where the first leaves the decoder FAULTED, else it goes on
where the first ended (41_frame_codec.md R81). -/
theorem feedBytes_append (s : State) (as bs : Bytes) (hs : s.dstate ≠ .faulted) :
    feedBytes s (as ++ bs) =
      if (feedBytes s as).1.dstate = .faulted then feedBytes s as
      else ((feedBytes (feedBytes s as).1 bs).1, (feedBytes s as).2 ++ (feedBytes (feedBytes s as).1 bs).2) := by
  induction as generalizing s with
  | nil => simp [feedBytes, hs]
  | cons a as ih =>
    by_cases hf : (feedByte s a).1.dstate = .faulted
    · simp [feedBytes, hf]
    · simp only [List.cons_append, feedBytes, hf, if_false, ih _ hf]
      split_ifs <;> simp [List.append_assoc]

end Sys2Proof.Machine
end

