-- ==== Sys2Proof/Laws/Operands.lean ====
section
/-! SUPPORT. The operand walk: what it answers, and what it answers on operands as the encoder lays them out
(30_encoding.md R49, R50). -/

namespace Sys2Proof.Machine

/-- The row of each opcode byte is its opcode: no two rows of the opcode map share a byte (30_encoding.md R54). -/
theorem opcodeOf_opcodeByte (o : Opcode) : opcodeOf (opcodeByte o) = some o := by
  cases o <;> decide

/-- An opcode byte that has a row is that row's byte. -/
theorem opcodeByte_of_opcodeOf {b : Byte} {o : Opcode} (h : opcodeOf b = some o) : opcodeByte o = b := by
  simpa using List.find?_some h

/-- The walk over operands that it accepts: their bytes, and the bytes after them. -/
theorem walkOperands_encoded (cfg : Config) (ops : List Bytes) (after : Bytes)
    (h : ∀ op ∈ ops, op.length ≤ cfg.maxOperandLen ∧ op.length < 2 ^ 32) :
    walkOperands cfg ops.length (ops.flatMap lengthPrefixed ++ after) = .ok (ops, after) := by
  induction ops with
  | nil => rfl
  | cons op ops ih =>
    obtain ⟨hmax, h32⟩ := h op (List.mem_cons_self ..)
    have hlen : (u32be (lengthPrefixed op ++ (ops.flatMap lengthPrefixed ++ after))).toNat = op.length := by
      rw [lengthPrefixed, List.append_assoc, u32be_be32_append, toNat_length32 h32]
    have hdrop : (lengthPrefixed op ++ (ops.flatMap lengthPrefixed ++ after)).drop 4 =
        op ++ (ops.flatMap lengthPrefixed ++ after) := by
      rw [lengthPrefixed, List.append_assoc, List.drop_left' (by simp)]
    rw [List.length_cons, List.flatMap_cons, List.append_assoc, walkOperands, hlen, hdrop,
      if_neg (by simp; omega), if_neg (by omega), if_neg (by simp), List.drop_left, List.take_left,
      ih (fun x hx => h x (List.mem_cons_of_mem _ hx))]

/-- What a successful walk has read: the operands, length-prefixed, then the rest; each within the limits. -/
theorem walkOperands_ok {cfg : Config} {n : Nat} {rest after : Bytes} {ops : List Bytes}
    (h : walkOperands cfg n rest = .ok (ops, after)) :
    ops.length = n ∧ rest = ops.flatMap lengthPrefixed ++ after ∧
      ∀ op ∈ ops, op.length ≤ cfg.maxOperandLen ∧ op.length < 2 ^ 32 := by
  induction n generalizing rest ops with
  | zero =>
    obtain ⟨rfl, rfl⟩ := by simpa [walkOperands] using h
    simp
  | succ n ih =>
    unfold walkOperands at h
    split at h; · cases h
    split at h; · cases h
    split at h; · cases h
    rename_i h4 hmax hbody
    split at h; · cases h
    rename_i ops' after' hw
    obtain ⟨rfl, rfl⟩ := by simpa using h
    obtain ⟨hn, hr, hall⟩ := ih hw
    have hL := (u32be rest).isLt
    have htake : ((rest.drop 4).take (u32be rest).toNat).length = (u32be rest).toNat := by
      rw [List.length_take]; omega
    refine ⟨by simp [hn], ?_, ?_⟩
    · rw [List.flatMap_cons, List.append_assoc, ← hr, lengthPrefixed, htake]
      have hl : length32 (u32be rest).toNat = u32be rest := by
        apply BitVec.eq_of_toNat_eq; exact toNat_length32 hL
      rw [hl, List.append_assoc, List.take_append_drop]
      exact (be32_u32be_append_drop (by omega)).symm
    · intro op hop
      rcases List.mem_cons.mp hop with rfl | hop
      · rw [htake]; omega
      · exact hall op hop

end Sys2Proof.Machine
end

