-- ==== Sys2Proof/Laws/Ops.lean ====
section
/-! SUPPORT. One lemma for each shared operation that says once everything it can do. -/

namespace Sys2Proof.Machine

/-- What taking a command from the port can do. -/
theorem takeCommand_eq_some {s t : State} {d : Bytes} :
    takeCommand s = some (d, t) ↔ ∃ ds, s.pending = d :: ds ∧ t = s.withPending ds := by
  unfold takeCommand
  cases h : s.pending with
  | nil => simp
  | cons d' ds =>
    constructor
    · intro e
      obtain ⟨rfl, rfl⟩ := by simpa using e
      exact ⟨ds, rfl, rfl⟩
    · rintro ⟨ds', e, rfl⟩
      obtain ⟨rfl, rfl⟩ := List.cons.inj e
      rfl

/-- No command is taken exactly where none waits. -/
theorem takeCommand_eq_none {s : State} : takeCommand s = none ↔ s.pending = [] := by
  unfold takeCommand
  cases s.pending <;> simp

/-- An error response is its two status bytes and a zero count (60_exceptions.md R150). -/
@[simp] theorem responseBytes_nil (st sub : Byte) : responseBytes st sub [] = [st, sub, 0, 0] := rfl

/-- A completed command is the state of `afterOk`. -/
theorem complete_eq_afterOk (s : State) (outs : List Bytes) : complete s outs = afterOk s outs := rfl

/-- A command that raised is the state of `afterError`. -/
theorem raise_eq_afterError (s : State) (e : CmdError) : raise s e = afterError s e.status e.sub := rfl

/-- What the completion of a one-output command can do. -/
theorem finishOne_cases (s : State) (r : Except CmdError Bytes) :
    (∃ out, r = .ok out ∧ finishOne s r = complete s [out]) ∨ (∃ e, r = .error e ∧ finishOne s r = raise s e) := by
  cases r with
  | ok out => exact .inl ⟨out, rfl, rfl⟩
  | error e => exact .inr ⟨e, rfl, rfl⟩

/-- What a CSR write can do: to CRC, to DEC_MAXPAY, or an error. -/
theorem csrStore_cases (s : State) (a : Half) (v : Word) :
    (a = 0x0002 ∧ csrStore s a v = .ok (s.withCrc (v.setWidth 16))) ∨
    (a = 0x0003 ∧ csrStore s a v = .ok (s.withMaxpay (cappedMaxpay s v))) ∨
    ((a = 0x0000 ∨ a = 0x0001 ∨ a = 0x0004 ∨ a = 0x0005) ∧ csrStore s a v = .error .csrRo) ∨
    ((a ≠ 0x0000 ∧ a ≠ 0x0001 ∧ a ≠ 0x0002 ∧ a ≠ 0x0003 ∧ a ≠ 0x0004 ∧ a ≠ 0x0005) ∧
      csrStore s a v = .error .csrAddr) := by
  unfold csrStore
  by_cases h : a = 0x0000 ∨ a = 0x0001 ∨ a = 0x0004 ∨ a = 0x0005
  · exact .inr (.inr (.inl ⟨h, if_pos h⟩))
  · by_cases h2 : a = 0x0002
    · exact .inl ⟨h2, by rw [if_neg h, if_pos h2]⟩
    · by_cases h3 : a = 0x0003
      · exact .inr (.inl ⟨h3, by rw [if_neg h, if_neg h2, if_pos h3]⟩)
      · refine .inr (.inr (.inr ⟨?_, by rw [if_neg h, if_neg h2, if_neg h3]⟩))
        simp only [not_or] at h
        exact ⟨h.1, h.2.1, h2, h3, h.2.2.1, h.2.2.2⟩

/-- The capped value is within PAYLOAD_BUF_MAX (10_state.md R21). -/
theorem cappedMaxpay_le (s : State) (v : Word) : cappedMaxpay s v ≤ s.cfg.payloadBufMax := by
  unfold cappedMaxpay
  split
  · assumption
  · exact BitVec.le_refl _

/-- What a step can do: idle, a descriptor error, or a decoded command. -/
theorem step_cases (s : State) :
    (s.pending = [] ∧ step s = .next s) ∨
    (∃ d ds e, s.pending = d :: ds ∧ decode s.cfg d = .error e ∧ step s = .next (raise (s.withPending ds) e)) ∨
    (∃ d ds i, s.pending = d :: ds ∧ decode s.cfg d = .ok i ∧ step s = exec i (s.withPending ds)) := by
  unfold step commandCycle takeCommand
  cases hp : s.pending with
  | nil => exact .inl ⟨rfl, rfl⟩
  | cons d ds =>
    cases hd : decode s.cfg d with
    | error e => exact .inr (.inl ⟨d, ds, e, rfl, hd, by simp [runDescriptor, hd]⟩)
    | ok i => exact .inr (.inr ⟨d, ds, i, rfl, hd, by simp [runDescriptor, hd]⟩)

end Sys2Proof.Machine
end

