-- ==== Sys2Proof/Laws/PerInstr.lean ====
section
/-! SUPPORT. Facts about each instruction as syntax, one lemma per constructor of `Instr`. -/

set_option linter.unusedSimpArgs false

namespace Sys2Proof.Laws.OperandsFit

open Sys2Proof.Machine

/-- The operands of a well-formed instruction are what its opcode's row of 30_encoding.md R54 asks for: assembled they
give the instruction back, their number is NOPS, their fixed lengths hold, and each fits its length field. -/
def Statement (i : Instr) : Prop :=
  ∀ cfg : Config, cfg.Valid → i.wellFormed cfg = true →
    assembleOperands i.opcode i.operands = some i ∧ i.operands.length = operandCount i.opcode ∧
      fixedLensHold (operandLens i.opcode) i.operands = true ∧
      ∀ op ∈ i.operands, op.length ≤ cfg.maxOperandLen ∧ op.length < 2 ^ 32

theorem nop : Statement (.nop) := by
  intro cfg hv h
  simp [Instr.wellFormed, fitsVar, Instr.opcode, Instr.operands, assembleOperands, operandCount, operandLens, fixedLensHold] at h hv ⊢
  try omega

theorem csrRead (addr : Half) : Statement (.csrRead addr) := by
  intro cfg hv h
  simp [Instr.wellFormed, fitsVar, Instr.opcode, Instr.operands, assembleOperands, operandCount, operandLens, fixedLensHold] at h hv ⊢
  try omega

theorem csrWrite (addr : Half) (value : Word) : Statement (.csrWrite addr value) := by
  intro cfg hv h
  simp [Instr.wellFormed, fitsVar, Instr.opcode, Instr.operands, assembleOperands, operandCount, operandLens, fixedLensHold] at h hv ⊢
  try omega

theorem softReset : Statement (.softReset) := by
  intro cfg hv h
  simp [Instr.wellFormed, fitsVar, Instr.opcode, Instr.operands, assembleOperands, operandCount, operandLens, fixedLensHold] at h hv ⊢
  try omega

theorem crc16 (data : Bytes) (start : Word) (stop : Word) : Statement (.crc16 data start stop) := by
  intro cfg hv h
  simp [Instr.wellFormed, fitsVar, Instr.opcode, Instr.operands, assembleOperands, operandCount, operandLens, fixedLensHold] at h hv ⊢
  try omega

theorem crcInit : Statement (.crcInit) := by
  intro cfg hv h
  simp [Instr.wellFormed, fitsVar, Instr.opcode, Instr.operands, assembleOperands, operandCount, operandLens, fixedLensHold] at h hv ⊢
  try omega

theorem crcUpdate (data : Bytes) : Statement (.crcUpdate data) := by
  intro cfg hv h
  simp [Instr.wellFormed, fitsVar, Instr.opcode, Instr.operands, assembleOperands, operandCount, operandLens, fixedLensHold] at h hv ⊢
  try omega

theorem frameEncode (mt : Half) (cid : Bytes) (pk : Bytes) (iv : Bytes) (payload : Bytes) : Statement (.frameEncode mt cid pk iv payload) := by
  intro cfg hv h
  simp [Instr.wellFormed, fitsVar, Instr.opcode, Instr.operands, assembleOperands, operandCount, operandLens, fixedLensHold] at h hv ⊢
  try omega

theorem decFeed (chunk : Bytes) : Statement (.decFeed chunk) := by
  intro cfg hv h
  simp [Instr.wellFormed, fitsVar, Instr.opcode, Instr.operands, assembleOperands, operandCount, operandLens, fixedLensHold] at h hv ⊢
  try omega

theorem decEos : Statement (.decEos) := by
  intro cfg hv h
  simp [Instr.wellFormed, fitsVar, Instr.opcode, Instr.operands, assembleOperands, operandCount, operandLens, fixedLensHold] at h hv ⊢
  try omega

theorem decReset : Statement (.decReset) := by
  intro cfg hv h
  simp [Instr.wellFormed, fitsVar, Instr.opcode, Instr.operands, assembleOperands, operandCount, operandLens, fixedLensHold] at h hv ⊢
  try omega

theorem aesCbcEnc (key : Bytes) (iv : Bytes) (pt : Bytes) : Statement (.aesCbcEnc key iv pt) := by
  intro cfg hv h
  simp [Instr.wellFormed, fitsVar, Instr.opcode, Instr.operands, assembleOperands, operandCount, operandLens, fixedLensHold] at h hv ⊢
  try omega

theorem aesCbcDec (key : Bytes) (iv : Bytes) (ct : Bytes) : Statement (.aesCbcDec key iv ct) := by
  intro cfg hv h
  simp [Instr.wellFormed, fitsVar, Instr.opcode, Instr.operands, assembleOperands, operandCount, operandLens, fixedLensHold] at h hv ⊢
  try omega

theorem hmacSha256 (key : Bytes) (msg : Bytes) : Statement (.hmacSha256 key msg) := by
  intro cfg hv h
  simp [Instr.wellFormed, fitsVar, Instr.opcode, Instr.operands, assembleOperands, operandCount, operandLens, fixedLensHold] at h hv ⊢
  try omega

theorem hkdfExtract (salt : Bytes) (ikm : Bytes) : Statement (.hkdfExtract salt ikm) := by
  intro cfg hv h
  simp [Instr.wellFormed, fitsVar, Instr.opcode, Instr.operands, assembleOperands, operandCount, operandLens, fixedLensHold] at h hv ⊢
  try omega

theorem hkdfExpand (prk : Bytes) (info : Bytes) (len : Half) : Statement (.hkdfExpand prk info len) := by
  intro cfg hv h
  simp [Instr.wellFormed, fitsVar, Instr.opcode, Instr.operands, assembleOperands, operandCount, operandLens, fixedLensHold] at h hv ⊢
  try omega

theorem ecdhX (d : Bytes) (x : Bytes) : Statement (.ecdhX d x) := by
  intro cfg hv h
  simp [Instr.wellFormed, fitsVar, Instr.opcode, Instr.operands, assembleOperands, operandCount, operandLens, fixedLensHold] at h hv ⊢
  try omega

theorem chacha20 (key : Bytes) (nonce : Bytes) (ctr : Word) (data : Bytes) : Statement (.chacha20 key nonce ctr data) := by
  intro cfg hv h
  simp [Instr.wellFormed, fitsVar, Instr.opcode, Instr.operands, assembleOperands, operandCount, operandLens, fixedLensHold] at h hv ⊢
  try omega

theorem nip44Convkey (d : Bytes) (x : Bytes) : Statement (.nip44Convkey d x) := by
  intro cfg hv h
  simp [Instr.wellFormed, fitsVar, Instr.opcode, Instr.operands, assembleOperands, operandCount, operandLens, fixedLensHold] at h hv ⊢
  try omega

theorem nip44Encrypt (ck : Bytes) (nonce : Bytes) (pt : Bytes) : Statement (.nip44Encrypt ck nonce pt) := by
  intro cfg hv h
  simp [Instr.wellFormed, fitsVar, Instr.opcode, Instr.operands, assembleOperands, operandCount, operandLens, fixedLensHold] at h hv ⊢
  try omega

theorem nip44Decrypt (ck : Bytes) (payload : Bytes) : Statement (.nip44Decrypt ck payload) := by
  intro cfg hv h
  simp [Instr.wellFormed, fitsVar, Instr.opcode, Instr.operands, assembleOperands, operandCount, operandLens, fixedLensHold] at h hv ⊢
  try omega

end Sys2Proof.Laws.OperandsFit
end

