-- ==== Sys2Proof/Tests/Slice0.lean ====
section
/-! SUPPORT. Tests, and a witness for the hypotheses of each statement. Expected values are the spec's (95_test_vectors.md,
30_encoding.md); each test names its source. Descriptors and responses stand in the spec's own hex notation. -/

namespace Sys2Proof.Tests

open Sys2Proof Sys2Proof.Machine

-- One theorem after another: each kernel evaluation below needs its own deep stack.
set_option Elab.async false

/-- The value of a lower-case hex digit. -/
def hexDigit (c : Char) : Nat := if c.toNat < 58 then c.toNat - 48 else c.toNat - 87

/-- The bytes of a string of hex digits. -/
def hexBytes : List Char → Bytes
  | a :: b :: rest => BitVec.ofNat 8 (16 * hexDigit a + hexDigit b) :: hexBytes rest
  | _ => []

/-- The bytes that a hex string of the spec stands for. -/
def hex (s : String) : Bytes := hexBytes s.toList

/-- This hardware's decoder, on a descriptor in hex. -/
def decodeHex (s : String) : Except CmdError Instr := decode Config.thisHardware (hex s)

/-- The response of one step from `s` with `desc` delivered; none where the step does not answer a next state. -/
def answer (s : State) (desc : Bytes) : Bytes :=
  match step (s.withPending [desc]) with
  | .next t => t.responses.getLastD []
  | _ => []

/-- The state after one step from `s` with `desc` delivered, its port empty again. -/
def afterStep (s : State) (desc : Bytes) : State :=
  match step (s.withPending [desc]) with
  | .next t => { t with responses := [] }
  | _ => s

/-- The reset state with a decoder state, a buffer and a length in progress. -/
def withDec (d : DState) (buf : Bytes) (len : Word) : State := State.reset.withDecoder d buf len

/-- The reset state with one descriptor waiting. -/
def waiting (desc : Bytes) : State := State.reset.withPending [desc]

/-- A response frame with the payload `p`. -/
def sampleFrame (p : Bytes) : ResponseFrame :=
  { messageType := 11, correlationId := zeros 16, resultCode := 1, sourcePubkey := zeros 32, iv := zeros 16, payload := p }

/-- The opcodes of 30_encoding.md R54 with their operand counts, as Obligations.HeaderChecksInOrder lists them. -/
def counts : List (Nat × Nat) :=
  [(0x00, 0), (0x01, 1), (0x02, 2), (0x03, 0), (0x10, 3), (0x11, 0), (0x12, 1), (0x20, 5), (0x21, 1), (0x22, 0),
   (0x23, 0), (0x30, 3), (0x31, 3), (0x40, 2), (0x41, 2), (0x42, 3), (0x50, 2), (0x60, 4), (0x70, 2), (0x71, 3), (0x72, 2)]

/-! ### Decoding: words written out from 30_encoding.md R48, R49, R54, one for each constructor -/

theorem test_decode_nop : decode Config.thisHardware (hex "00000000") =
    .ok (.nop) := by
  decide +kernel

theorem test_decode_csr_read : decode Config.thisHardware (hex "01000001000000020005") =
    .ok (.csrRead 0x0005) := by
  decide +kernel

theorem test_decode_csr_write : decode Config.thisHardware (hex "020000020000000200030000000412345678") =
    .ok (.csrWrite 0x0003 0x12345678) := by
  decide +kernel

theorem test_decode_soft_reset : decode Config.thisHardware (hex "03000000") =
    .ok (.softReset) := by
  decide +kernel

theorem test_decode_crc16 : decode Config.thisHardware (hex "100000030000000361626300000004000001020000000400030004") =
    .ok (.crc16 [0x61, 0x62, 0x63] 0x00000102 0x00030004) := by
  decide +kernel

theorem test_decode_crc_init : decode Config.thisHardware (hex "11000000") =
    .ok (.crcInit) := by
  decide +kernel

theorem test_decode_crc_update : decode Config.thisHardware (hex "12000001000000025aa5") =
    .ok (.crcUpdate [0x5a, 0xa5]) := by
  decide +kernel

theorem test_decode_frame_encode : decode Config.thisHardware (hex ("2000000500000002000b0000001011111111111111111111111111111111000000202222222222222222222222222222" ++
      "222222222222222222222222222222222222000000103333333333333333333333333333333300000001ab")) =
    .ok (.frameEncode 0x000b (rep 0x11 16) (rep 0x22 32) (rep 0x33 16) [0xab]) := by
  decide +kernel

theorem test_decode_dec_feed : decode Config.thisHardware (hex "2100000100000003010203") =
    .ok (.decFeed [0x01, 0x02, 0x03]) := by
  decide +kernel

theorem test_decode_dec_eos : decode Config.thisHardware (hex "22000000") =
    .ok (.decEos) := by
  decide +kernel

theorem test_decode_dec_reset : decode Config.thisHardware (hex "23000000") =
    .ok (.decReset) := by
  decide +kernel

theorem test_decode_aes_cbc_enc : decode Config.thisHardware (hex ("300000030000001011111111111111111111111111111111000000102222222222222222222222222222222200000001" ++
      "68")) =
    .ok (.aesCbcEnc (rep 0x11 16) (rep 0x22 16) [0x68]) := by
  decide +kernel

theorem test_decode_aes_cbc_dec : decode Config.thisHardware (hex ("310000030000001011111111111111111111111111111111000000102222222222222222222222222222222200000002" ++
      "6869")) =
    .ok (.aesCbcDec (rep 0x11 16) (rep 0x22 16) [0x68, 0x69]) := by
  decide +kernel

theorem test_decode_hmac_sha256 : decode Config.thisHardware (hex "4000000200000001aa00000002bbcc") =
    .ok (.hmacSha256 [0xaa] [0xbb, 0xcc]) := by
  decide +kernel

theorem test_decode_hkdf_extract : decode Config.thisHardware (hex "410000020000000000000001dd") =
    .ok (.hkdfExtract [] [0xdd]) := by
  decide +kernel

theorem test_decode_hkdf_expand : decode Config.thisHardware (hex "4200000300000001aa00000001bb000000021fe0") =
    .ok (.hkdfExpand [0xaa] [0xbb] 8160) := by
  decide +kernel

theorem test_decode_ecdh_x : decode Config.thisHardware (hex ("500000020000002011111111111111111111111111111111111111111111111111111111111111110000002022222222" ++
      "22222222222222222222222222222222222222222222222222222222")) =
    .ok (.ecdhX (rep 0x11 32) (rep 0x22 32)) := by
  decide +kernel

theorem test_decode_chacha20 : decode Config.thisHardware (hex ("600000040000002011111111111111111111111111111111111111111111111111111111111111110000000c22222222" ++
      "2222222222222222000000040102030400000001ff")) =
    .ok (.chacha20 (rep 0x11 32) (rep 0x22 12) 0x01020304 [0xff]) := by
  decide +kernel

theorem test_decode_nip44_convkey : decode Config.thisHardware (hex ("700000020000002011111111111111111111111111111111111111111111111111111111111111110000002022222222" ++
      "22222222222222222222222222222222222222222222222222222222")) =
    .ok (.nip44Convkey (rep 0x11 32) (rep 0x22 32)) := by
  decide +kernel

theorem test_decode_nip44_encrypt : decode Config.thisHardware (hex ("710000030000002011111111111111111111111111111111111111111111111111111111111111110000002022222222" ++
      "222222222222222222222222222222222222222222222222222222220000000161")) =
    .ok (.nip44Encrypt (rep 0x11 32) (rep 0x22 32) [0x61]) := by
  decide +kernel

theorem test_decode_nip44_decrypt : decode Config.thisHardware (hex "72000002000000201111111111111111111111111111111111111111111111111111111111111111000000026162") =
    .ok (.nip44Decrypt (rep 0x11 32) [0x61, 0x62]) := by
  decide +kernel

/-- 95_test_vectors.md V8: the descriptor errors, one case each. -/
theorem test_descriptor_errors :
    decodeHex "13000000" = .error .opcode ∧ decodeHex "f0000000" = .error .opcode ∧
    decodeHex "00010000" = .error .rsvNonzero ∧ decodeHex "0000000100000000" = .error .nopsMismatch ∧
    decodeHex "12000001000000056162" = .error .truncated ∧ decodeHex "0000" = .error .truncated ∧
    decodeHex "0000000000" = .error .trailing ∧ decodeHex "0100000100000003000000" = .error .oplenFixed ∧
    decodeHex "1200000100020001" = .error .oplenMax := by
  decide +kernel

/-- The 21 header words of spec/opcode_table.json, each read as the command of its row (log entry 4). -/
theorem test_table_words :
    (([0x00000000, 0x01000001, 0x02000002, 0x03000000, 0x10000003, 0x11000000, 0x12000001, 0x20000005, 0x21000001,
       0x22000000, 0x23000000, 0x30000003, 0x31000003, 0x40000002, 0x41000002, 0x42000003, 0x50000002, 0x60000004,
       0x70000002, 0x71000003, 0x72000002] : List Nat).map fun w => (decodeTableWord 32 w).map Instr.opcode) =
    [Opcode.nop, .csrRead, .csrWrite, .softReset, .crc16, .crcInit, .crcUpdate, .frameEncode, .decFeed, .decEos,
     .decReset, .aesCbcEnc, .aesCbcDec, .hmacSha256, .hkdfExtract, .hkdfExpand, .ecdhX, .chacha20, .nip44Convkey,
     .nip44Encrypt, .nip44Decrypt].map some := by
  decide +kernel

/-- A reserved header word is no command (30_encoding.md R55, R56). -/
theorem test_table_word_reserved : decodeTableWord 32 0x13000000 = none ∧ decodeTableWord 32 0x01010001 = none := by
  decide +kernel

/-- `withFetchWord` places the command that the next step runs. -/
theorem test_withFetchWord :
    (match step (State.reset.withFetchWord 32 0x01000001) with
     | .next t => t.responses
     | _ => []) = [[0x00, 0x00, 0x00, 0x01, 0x00, 0x00, 0x00, 0x04, 0x4e, 0x53, 0x07, 0x01]] := by
  decide +kernel

/-- 30_encoding.md R63: the assembler's worked example, the descriptor of 95_test_vectors.md P1. -/
theorem test_assembleLine :
    assembleLine "CRC16 \"123456789\", #0, #9".toList =
      some (hex "100000030000000931323334353637383900000004000000000000000400000009") := by
  decide +kernel

/-! ### Well-formedness: an ill-formed term for each check, refused -/

theorem test_wf_accepts :
    (Instr.frameEncode 0 (zeros 16) (zeros 32) (zeros 16) []).wellFormed Config.thisHardware = true ∧
    (Instr.chacha20 (zeros 32) (zeros 12) 0 []).wellFormed Config.thisHardware = true := by
  decide +kernel

theorem test_wf_frameEncode :
    (Instr.frameEncode 0 (zeros 15) (zeros 32) (zeros 16) []).wellFormed Config.thisHardware = false ∧
    (Instr.frameEncode 0 (zeros 16) (zeros 33) (zeros 16) []).wellFormed Config.thisHardware = false ∧
    (Instr.frameEncode 0 (zeros 16) (zeros 32) (zeros 15) []).wellFormed Config.thisHardware = false := by
  decide +kernel

theorem test_wf_aes :
    (Instr.aesCbcEnc (zeros 15) (zeros 16) []).wellFormed Config.thisHardware = false ∧
    (Instr.aesCbcEnc (zeros 16) (zeros 17) []).wellFormed Config.thisHardware = false ∧
    (Instr.aesCbcDec (zeros 17) (zeros 16) []).wellFormed Config.thisHardware = false ∧
    (Instr.aesCbcDec (zeros 16) (zeros 15) []).wellFormed Config.thisHardware = false := by
  decide +kernel

theorem test_wf_keys :
    (Instr.ecdhX (zeros 31) (zeros 32)).wellFormed Config.thisHardware = false ∧
    (Instr.ecdhX (zeros 32) (zeros 33)).wellFormed Config.thisHardware = false ∧
    (Instr.nip44Convkey (zeros 33) (zeros 32)).wellFormed Config.thisHardware = false ∧
    (Instr.nip44Convkey (zeros 32) (zeros 31)).wellFormed Config.thisHardware = false := by
  decide +kernel

theorem test_wf_chacha20 :
    (Instr.chacha20 (zeros 31) (zeros 12) 0 []).wellFormed Config.thisHardware = false ∧
    (Instr.chacha20 (zeros 32) (zeros 13) 0 []).wellFormed Config.thisHardware = false := by
  decide +kernel

theorem test_wf_nip44 :
    (Instr.nip44Encrypt (zeros 31) (zeros 32) []).wellFormed Config.thisHardware = false ∧
    (Instr.nip44Encrypt (zeros 32) (zeros 31) []).wellFormed Config.thisHardware = false ∧
    (Instr.nip44Decrypt (zeros 31) []).wellFormed Config.thisHardware = false := by
  decide +kernel

/-- Every variable operand is checked against MAX_OPERAND_LEN: one byte more than a limit of 2 is refused. -/
theorem test_wf_operandLimit :
    let cfg : Config := { Config.thisHardware with maxOperandLen := 2 }
    fitsVar cfg (zeros 2) = true ∧ fitsVar cfg (zeros 3) = false ∧
    (Instr.crc16 (zeros 3) 0 0).wellFormed cfg = false ∧ (Instr.crcUpdate (zeros 3)).wellFormed cfg = false ∧
    (Instr.frameEncode 0 (zeros 16) (zeros 32) (zeros 16) (zeros 3)).wellFormed cfg = false ∧
    (Instr.decFeed (zeros 3)).wellFormed cfg = false ∧
    (Instr.aesCbcEnc (zeros 16) (zeros 16) (zeros 3)).wellFormed cfg = false ∧
    (Instr.aesCbcDec (zeros 16) (zeros 16) (zeros 3)).wellFormed cfg = false ∧
    (Instr.hmacSha256 (zeros 3) []).wellFormed cfg = false ∧ (Instr.hmacSha256 [] (zeros 3)).wellFormed cfg = false ∧
    (Instr.hkdfExtract (zeros 3) []).wellFormed cfg = false ∧ (Instr.hkdfExtract [] (zeros 3)).wellFormed cfg = false ∧
    (Instr.hkdfExpand (zeros 3) [] 1).wellFormed cfg = false ∧ (Instr.hkdfExpand [] (zeros 3) 1).wellFormed cfg = false ∧
    (Instr.chacha20 (zeros 32) (zeros 12) 0 (zeros 3)).wellFormed cfg = false ∧
    (Instr.nip44Encrypt (zeros 32) (zeros 32) (zeros 3)).wellFormed cfg = false ∧
    (Instr.nip44Decrypt (zeros 32) (zeros 3)).wellFormed cfg = false := by
  decide +kernel

/-! ### One step: at most two small tests for each command, on the spec's vectors -/

/-- P6: NOP after an error clears the status. -/
theorem test_nop :
    answer (State.reset.withStatus 0x02 0x05) (hex "00000000") =
      hex "00000000" := by
  decide +kernel

/-- P3: STATUS of a FAULTED decoder after an OK. -/
theorem test_csr_read_status :
    answer (withDec .faulted [] 0) (hex "01000001000000020001") =
      hex "000000010000000400030000" := by
  decide +kernel

/-- P2: DEC_FILL with 50 bytes buffered. -/
theorem test_csr_read_fill :
    answer (withDec .awaitHeader (zeros 50) 0) (hex "01000001000000020004") =
      hex "000000010000000400000032" := by
  decide +kernel

/-- V9.2: bits 31 to 16 of a write to CRC are ignored. -/
theorem test_csr_write_crc :
    (afterStep State.reset (hex "020000020000000200020000000412345678")).crc = 0x5678 := by
  decide +kernel

/-- V9.4: a write of 70000 to DEC_MAXPAY is clamped. -/
theorem test_csr_write_maxpay :
    (afterStep (State.reset.withMaxpay 5) (hex "020000020000000200030000000400011170")).maxpay = 0x00010000 := by
  decide +kernel

/-- P6: the record before SOFT_RESET, and the reset state after it. -/
theorem test_soft_reset :
    afterStep (((withDec .awaitHeader (zeros 10) 0).withCrc 0xb915).withMaxpay 100) (hex "03000000") = State.reset := by
  decide +kernel

/-- V1.5. -/
theorem test_crc16_check :
    answer State.reset (hex "100000030000000931323334353637383900000004000000000000000400000009") =
      hex "000000010000000229b1" := by
  decide +kernel

/-- V1.11. -/
theorem test_crc16_range :
    answer State.reset (hex "100000030000000361626300000004000000020000000400000004") =
      hex "02070000" := by
  decide +kernel

/-- R69. -/
theorem test_crc_init :
    (afterStep (State.reset.withCrc 0x1234) (hex "11000000")).crc = 0xFFFF := by
  decide +kernel

/-- V1.10, the second update. -/
theorem test_crc_update :
    answer (State.reset.withCrc 0x5349) (hex "12000001000000053536373839") =
      hex "000000010000000229b1" := by
  decide +kernel

/-- V2.2. -/
theorem test_frame_encode :
    answer State.reset (hex ("2000000500000002000b00000010000102030405060708090a0b0c0d0e0f000000200000000000000000000000000000" ++
      "000000000000000000000000000000000000000000100000000000000000000000000000000000000001ab")) =
      hex ("0000000100000049000b000102030405060708090a0b0c0d0e0f00000000000000000000000000000000000000000000" ++
      "000000000000000000000000000000000000000000000000000000000001abddcb") := by
  decide +kernel

/-- V2.7: the last byte of a frame of payloadLength 0 with a wrong checksum, then a byte of the next frame. -/
theorem test_dec_feed_zero :
    let s := withDec .awaitPayload (hex ("000000000000000000000000000000000000000100000000000000000000000000000000000000000000000000000000" ++
      "00000000000000000000000000000000000000000000000074")) 0
    answer s (hex "2100000100000002f20b") =
      hex ("000000010000004c00000000000000000000000000000000000000000001000000000000000000000000000000000000" ++
      "0000000000000000000000000000000000000000000000000000000000000000000074f2") ∧
    (afterStep s (hex "2100000100000002f20b")).dbuf = [0x0b] := by
  decide +kernel

/-- P3: a payloadLength of 3 above the cap of 2 gives one LENGTH event, FAULTED, and the rest is discarded. -/
theorem test_dec_feed_length :
    let s := (withDec .awaitHeader (hex ("000b55555555555555555555555555555555000100000000000000000000000000000000000000000000000000000000" ++
      "00000000000000000000000000000000000000000000")) 0).withMaxpay 2
    answer s (hex "21000001000000070003010203bf57") =
      hex ("000000010000004a0403000b555555555555555555555555555555550001000000000000000000000000000000000000" ++
      "00000000000000000000000000000000000000000000000000000000000000000003") ∧
    (afterStep s (hex "21000001000000070003010203bf57")).dstate = .faulted := by
  decide +kernel

/-- P3: 10 header bytes are lost. -/
theorem test_dec_eos :
    answer (withDec .awaitHeader (zeros 10) 0) (hex "22000000") =
      hex "08010000" := by
  decide +kernel

/-- R84: CLOSED, then DEC_RESET. -/
theorem test_dec_reset :
    (afterStep (withDec .closed [] 0) (hex "23000000")).dstate = .awaitHeader := by
  decide +kernel

/-- P4. -/
theorem test_aes_cbc_enc :
    answer State.reset (hex ("3000000300000010000102030405060708090a0b0c0d0e0f000000100000000000000000000000000000000000000005" ++
      "68656c6c6f")) =
      hex "00000001000000105d8749e2af7531b2bf6661e9e5daf012" := by
  decide +kernel

/-- P4. -/
theorem test_aes_cbc_dec :
    answer State.reset (hex ("3100000300000010000102030405060708090a0b0c0d0e0f000000100000000000000000000000000000000000000010" ++
      "5d8749e2af7531b2bf6661e9e5daf012")) =
      hex "000000010000000568656c6c6f" := by
  decide +kernel

/-- V3.7, the second row. -/
theorem test_aes_cbc_dec_pad_bytes :
    answer State.reset (hex ("3100000300000010000102030405060708090a0b0c0d0e0f000000100000000000000000000000000000000000000010" ++
      "f662388a8a33596227d688d904beac4c")) =
      hex "05030000" := by
  decide +kernel

/-- V4.7. -/
theorem test_hmac_sha256 :
    answer State.reset (hex "400000020000000000000000") =
      hex "0000000100000020b613679a0814d9ec772f95d778c35fc5ff1697c493715653c6c712144292c5ad" := by
  decide +kernel

/-- V4.5. -/
theorem test_hkdf_extract :
    answer State.reset (hex "410000020000000d000102030405060708090a0b0c000000160b0b0b0b0b0b0b0b0b0b0b0b0b0b0b0b0b0b0b0b0b0b") =
      hex "0000000100000020077709362c2e32df0ddc3f0dc47bba6390b6c73bb50f9c3122ec844ad7c2b3e5" := by
  decide +kernel

/-- V4.8. -/
theorem test_hkdf_expand :
    answer State.reset (hex ("420000030000002000000000000000000000000000000000000000000000000000000000000000000000000000000002" ++
      "0001")) =
      hex "00000001000000013d" := by
  decide +kernel

/-- V4.10. -/
theorem test_hkdf_expand_range :
    answer State.reset (hex ("420000030000002000000000000000000000000000000000000000000000000000000000000000000000000000000002" ++
      "1fe1")) =
      hex "04010000" := by
  decide +kernel

/-- V5.4. -/
theorem test_ecdh_x :
    answer State.reset (hex ("5000000200000020000000000000000000000000000000000000000000000000000000000000000300000020c6047f94" ++
      "41ed7d6d3045406e95c07cd85c778e4b8cef3ca7abac09b95c709ee5")) =
      hex "0000000100000020fff97bd5755eeea420453a14355235d382f6472f8568a18b2f057a1460297556" := by
  decide +kernel

/-- V5.7: x = 5 is on no point of the curve. -/
theorem test_ecdh_x_point :
    answer State.reset (hex ("500000020000002000000000000000000000000000000000000000000000000000000000000000010000002000000000" ++
      "00000000000000000000000000000000000000000000000000000005")) =
      hex "07020000" := by
  decide +kernel

/-- V6.3. -/
theorem test_chacha20 :
    answer State.reset (hex ("600000040000002000000000000000000000000000000000000000000000000000000000000000000000000c00000000" ++
      "000000000000000000000004000000000000001000000000000000000000000000000000")) =
      hex "000000010000001076b8e0ada0f13d90405d6ae55386bd28" := by
  decide +kernel

/-- V6.4. -/
theorem test_chacha20_counter :
    answer State.reset (hex ("600000040000002000000000000000000000000000000000000000000000000000000000000000000000000c00000000" ++
      "000000000000000000000004ffffffff0000004100000000000000000000000000000000000000000000000000000000" ++
      "00000000000000000000000000000000000000000000000000000000000000000000000000")) =
      hex "04020000" := by
  decide +kernel

/-- V7.2. -/
theorem test_nip44_convkey :
    answer State.reset (hex ("7000000200000020000000000000000000000000000000000000000000000000000000000000000100000020c6047f94" ++
      "41ed7d6d3045406e95c07cd85c778e4b8cef3ca7abac09b95c709ee5")) =
      hex "0000000100000020c41c775356fd92eadc63ff5a0dc1da211b268cbea22316767095b2871ea1412d" := by
  decide +kernel

/-- V7.3. -/
theorem test_nip44_encrypt :
    nip44Enc (hex "c41c775356fd92eadc63ff5a0dc1da211b268cbea22316767095b2871ea1412d") (hex "0000000000000000000000000000000000000000000000000000000000000001") [0x61] =
      .ok (hex ("416741414141414141414141414141414141414141414141414141414141414141414141414141414141414265653047" ++
      "3556534b302f39597970494f624174444b665945416a44333575566b487942304634447772634e6143586c43575a4b61" ++
      "417273477259364d39776e75544d785766703152544e39586761386e6f2b6b4635567362")) := by
  decide +kernel

/-- V7.3. -/
theorem test_nip44_decrypt :
    nip44Dec (hex "c41c775356fd92eadc63ff5a0dc1da211b268cbea22316767095b2871ea1412d")
      (hex ("416741414141414141414141414141414141414141414141414141414141414141414141414141414141414265653047" ++
      "3556534b302f39597970494f624174444b665945416a44333575566b487942304634447772634e6143586c43575a4b61" ++
      "417273477259364d39776e75544d785766703152544e39586761386e6f2b6b4635567362")) = .ok [0x61] := by
  decide +kernel

/-- V7.6: decoded byte 0 is 01. -/
theorem test_nip44_decrypt_version :
    nip44Dec (hex "c41c775356fd92eadc63ff5a0dc1da211b268cbea22316767095b2871ea1412d")
      (hex ("415141414141414141414141414141414141414141414141414141414141414141414141414141414141414265653047" ++
      "3556534b302f39597970494f624174444b665945416a44333575566b487942304634447772634e6143586c43575a4b61" ++
      "417273477259364d39776e75544d785766703152544e39586761386e6f2b6b4635567362")) =
      .error .version := by
  decide +kernel

/-! ### Witnesses: for each statement with hypotheses, a concrete state and operands that meet them all -/

theorem zeros_len (n : Nat) : (zeros n).length = n := List.length_replicate

/-- A checksum with bit 0 flipped is another checksum. -/
theorem flipped_ne (c : Half) : c ^^^ 1 ≠ c := by
  intro h
  have := congrArg (·.getLsbD 0) h
  simp at this

theorem witness_DecodeOfEncode :
    Config.thisHardware.Valid ∧ (Instr.crcUpdate [0x31, 0x32]).wellFormed Config.thisHardware = true := by
  decide +kernel

theorem witness_EncodeOfDecode :
    decode Config.thisHardware [0x12, 0x00, 0x00, 0x01, 0x00, 0x00, 0x00, 0x01, 0x31] = .ok (.crcUpdate [0x31]) := by
  decide +kernel

/-- Each clause: no byte and 3 bytes; an opcode off the map (0x13, its neighbour 0x12 on it); RSV 1; NOPS 0 and 2 for 1. -/
theorem witness_HeaderChecksInOrder :
    ([] : Bytes).length < 4 ∧ ([0x00, 0x00, 0x00] : Bytes).length < 4 ∧
    (0x12, 1) ∈ counts ∧ (∀ n, (0x13, n) ∉ counts) ∧
    (0x01 : Byte) ≠ 0 ∧ 256 * (0x00 : Byte).toNat + (0x02 : Byte).toNat ≠ 1 ∧
    256 * (0x00 : Byte).toNat + (0x00 : Byte).toNat ≠ 1 := by
  refine ⟨by decide, by decide, by decide, ?_, by decide, by decide, by decide⟩
  intro n h
  simp [counts] at h

/-- Each clause: 3 bytes; address operands of 1 and 3 bytes; the longest operand within MAX_OPERAND_LEN, and one byte more. -/
theorem witness_OperandChecksInOrder :
    ([0x00, 0x00, 0x00] : Bytes).length < 4 ∧
    ((zeros 131072).length < 2 ^ 32 ∧ (zeros 131072).length ≤ Config.thisHardware.maxOperandLen) ∧
    ((zeros 131073).length < 2 ^ 32 ∧ Config.thisHardware.maxOperandLen < (zeros 131073).length) ∧
    (([0x01] : Bytes).length ≤ Config.thisHardware.maxOperandLen ∧ ([0x01] : Bytes).length < 2 ^ 32 ∧
      ([0x01] : Bytes).length ≠ 2) ∧
    (([0x00, 0x00, 0x01] : Bytes).length ≤ Config.thisHardware.maxOperandLen ∧ ([0x00, 0x00, 0x01] : Bytes).length < 2 ^ 32 ∧
      ([0x00, 0x00, 0x01] : Bytes).length ≠ 2) := by
  rw [zeros_len, zeros_len]
  decide

theorem witness_ResponseWalksBack :
    ([[0x01, 0x02], []] : List Bytes).length < 2 ^ 16 ∧ (∀ o ∈ ([[0x01, 0x02], []] : List Bytes), o.length < 2 ^ 32) := by
  decide

theorem witness_StepRunsDecoded :
    (waiting [0x00, 0x00, 0x00, 0x00]).pending = [0x00, 0x00, 0x00, 0x00] :: [] ∧
    decode (waiting [0x00, 0x00, 0x00, 0x00]).cfg [0x00, 0x00, 0x00, 0x00] = .ok .nop := by
  decide +kernel

theorem witness_StepReportsDescriptorError :
    (waiting [0xf0, 0x00, 0x00, 0x00]).pending = [0xf0, 0x00, 0x00, 0x00] :: [] ∧
    decode (waiting [0xf0, 0x00, 0x00, 0x00]).cfg [0xf0, 0x00, 0x00, 0x00] = .error .opcode := by
  decide +kernel

theorem witness_IdleStepKeepsState : State.reset.pending = [] := rfl

theorem witness_EveryCommandAnswers : (waiting [0x22, 0x00, 0x00, 0x00]).pending = [0x22, 0x00, 0x00, 0x00] :: [] := rfl

theorem witness_FailedCommandChangesNothing :
    Instr.csrRead 6 ≠ .decEos ∧ exec (.csrRead 6) State.reset = .next (raise State.reset .csrAddr) ∧
    (raise State.reset .csrAddr).lastStatus ≠ 0 :=
  ⟨by decide, rfl, by decide⟩

/-- Both outcomes: NOP's OK, and the error of CRC16 on an empty range that ends before it starts. -/
theorem witness_ErrorsOfEachCommand :
    State.reset.cfg.Valid ∧ Instr.nop.wellFormed State.reset.cfg = true ∧
    exec .nop State.reset = .next (complete State.reset []) ∧
    (Instr.crc16 [] 1 0).wellFormed State.reset.cfg = true ∧
    exec (.crc16 [] 1 0) State.reset = .next (raise State.reset .range) :=
  ⟨by decide, by decide, rfl, by decide, rfl⟩

theorem witness_PureCommandsIgnoreState : isPure (.crc16 [0x31] 0 1) = true ∧ isPure (.nip44Decrypt [] []) = true := by
  decide

/-- Each clause, on the reset state. -/
theorem witness_StatefulCommandsFrame :
    exec (.csrRead 5) State.reset = .next (complete State.reset [[0x00, 0x00, 0x00, 0x00]]) ∧
    exec (.csrWrite 2 7) State.reset = .next (complete (State.reset.withCrc 7) []) ∧
    exec .crcInit State.reset = .next (complete (State.reset.withCrc 0xFFFF) []) ∧
    exec (.crcUpdate []) State.reset = .next (complete State.reset [[0xFF, 0xFF]]) ∧
    exec (.decFeed []) State.reset = .next (complete State.reset []) ∧
    exec .decEos State.reset = .next (raise (State.reset.withDecoder .closed [] 0) .clean) ∧
    exec .decReset State.reset = .next (complete State.reset []) :=
  ⟨rfl, rfl, rfl, rfl, rfl, rfl, rfl⟩

/-- A step that feeds one header byte. -/
theorem witness_StepKeepsStateWf :
    (waiting [0x21, 0x00, 0x00, 0x01, 0x00, 0x00, 0x00, 0x01, 0x00]).wf = true ∧
    step (waiting [0x21, 0x00, 0x00, 0x01, 0x00, 0x00, 0x00, 0x01, 0x00]) =
      .next (complete (withDec .awaitHeader [0x00] 0) []) :=
  ⟨by decide +kernel, rfl⟩

/-- Each way: the reset state itself, power-on reset and SOFT_RESET of a closed decoder. -/
theorem witness_ResetValues :
    State.reset = State.reset ∧ State.reset = powerOnReset (withDec .closed [] 0) ∧
    exec .softReset (withDec .closed [] 0) = .next (complete State.reset []) :=
  ⟨rfl, rfl, rfl⟩

theorem witness_CsrReadResult : (withDec .awaitHeader (zeros 71) 0).dbuf.length < 2 ^ 32 := by decide +kernel

theorem witness_UnimplementedCsr : 0x0006 ≤ (0x0006 : Half).toNat ∧ 0x0006 ≤ (0xFFFF : Half).toNat := by decide

theorem witness_CsrWriteResult :
    (0x0000 : Half) ∈ ([0x0000, 0x0001, 0x0004, 0x0005] : List Half) ∧
    (0x0005 : Half) ∈ ([0x0000, 0x0001, 0x0004, 0x0005] : List Half) := by
  decide

/-- The whole of the data, an empty range at its end, a range that ends before it starts, and one that ends one byte past
the data. -/
theorem witness_Crc16Result :
    ((0 : Word).toNat ≤ (2 : Word).toNat ∧ (2 : Word).toNat ≤ ([0x31, 0x32] : Bytes).length) ∧
    ((2 : Word).toNat ≤ (2 : Word).toNat ∧ (2 : Word).toNat ≤ ([0x31, 0x32] : Bytes).length) ∧
    (1 : Word).toNat < (2 : Word).toNat ∧ ([0x31, 0x32] : Bytes).length < (3 : Word).toNat := by
  decide

theorem witness_CrcInitResult :
    exec .crcInit State.reset = .next (complete State.reset []) ∧
    exec .crcInit (complete State.reset []) = .next (complete (complete State.reset []) []) :=
  ⟨rfl, rfl⟩

theorem witness_CrcSplitIndependent : (([0x31] : Bytes) ++ [0x32]).length < 2 ^ 32 := by decide

/-- The last bit of the only byte of the range. -/
theorem witness_CrcDetectsSingleBitFlip : 0 ≤ 0 ∧ 0 < 1 ∧ 1 ≤ ([0x31] : Bytes).length ∧ 7 < 8 := by decide

theorem witness_FrameEncodeLayout :
    (zeros 16).length = 16 ∧ (zeros 32).length = 32 ∧ (zeros 16).length = 16 ∧ ([] : Bytes).length < 2 ^ 32 := by
  decide

/-- Each clause: the two working states, CLOSED and FAULTED. -/
theorem witness_DecFeedResult :
    DecoderOpen State.reset ∧ DecoderOpen (withDec .awaitPayload (zeros 72) 0) ∧
    (withDec .closed [] 0).dstate = .closed ∧ (withDec .faulted [] 0).dstate = .faulted := by
  decide

/-- A frame with no payload, and one with the longest payload that a cap of 1 takes. -/
theorem witness_ResponseFrameRoundTrip :
    (State.reset.withMaxpay 1).dstate = .awaitHeader ∧ (State.reset.withMaxpay 1).dbuf = [] ∧
    (State.reset.withMaxpay 1).dlen = 0 ∧
    ((sampleFrame []).wellFormed = true ∧ (sampleFrame []).payload.length ≤ (State.reset.withMaxpay 1).maxpay.toNat) ∧
    ((sampleFrame [0xab]).wellFormed = true ∧
      (sampleFrame [0xab]).payload.length ≤ (State.reset.withMaxpay 1).maxpay.toNat) := by
  decide +kernel

theorem witness_WrongChecksumReported :
    State.reset.dstate = .awaitHeader ∧ State.reset.dbuf = [] ∧ State.reset.dlen = 0 ∧
    (sampleFrame [0xab]).wellFormed = true ∧ (sampleFrame [0xab]).payload.length ≤ State.reset.maxpay.toNat ∧
    (sampleFrame [0xab]).payload ≠ [] ∧
    crc16 (responseBody (sampleFrame [0xab])) 0 (responseBody (sampleFrame [0xab])).length ^^^ 1 ≠
      crc16 (responseBody (sampleFrame [0xab])) 0 (responseBody (sampleFrame [0xab])).length :=
  ⟨by decide, by decide, by decide, by decide +kernel, by decide +kernel, by decide, flipped_ne _⟩

theorem witness_ZeroLengthFrameUnchecked :
    State.reset.dstate = .awaitHeader ∧ State.reset.dbuf = [] ∧ State.reset.dlen = 0 ∧
    (sampleFrame []).wellFormed = true ∧ (sampleFrame []).payload = [] := by
  decide +kernel

/-- A payloadLength of 3, one above a cap of 2. -/
theorem witness_LengthFaultDiscardsRest :
    (State.reset.withMaxpay 2).dstate = .awaitHeader ∧ (State.reset.withMaxpay 2).dbuf = [] ∧
    (zeros 71 ++ [0x03]).length = 72 ∧
    (State.reset.withMaxpay 2).maxpay.toNat < (u32be ((zeros 71 ++ [0x03]).drop 68)).toNat := by
  decide +kernel

/-- Each clause. -/
theorem witness_DecEosResult :
    (withDec .closed [] 0).dstate = .closed ∧ (withDec .faulted [] 0).dstate = .faulted ∧
    (DecoderOpen (withDec .awaitHeader [0x00] 0) ∧ (withDec .awaitHeader [0x00] 0).dbuf ≠ []) ∧
    (DecoderOpen State.reset ∧ State.reset.dbuf = []) := by
  decide

theorem witness_DecResetResult :
    (withDec .closed [] 0).dstate = .closed ∧
    exec .decReset (withDec .closed [] 0) = .next (complete State.reset []) :=
  ⟨by decide, rfl⟩

/-- Each clause: a feed refused in CLOSED, a feed refused in FAULTED, and DEC_EOS in FAULTED. -/
theorem witness_StickyDecoderStates :
    (exec (.decFeed []) (withDec .closed [] 0) = .next (raise (withDec .closed [] 0) .alreadyClosed) ∧
      Instr.decFeed [] ≠ .decReset ∧ Instr.decFeed [] ≠ .softReset ∧ (withDec .closed [] 0).dstate = .closed) ∧
    (exec (.decFeed []) (withDec .faulted [] 0) = .next (raise (withDec .faulted [] 0) .faulted) ∧
      (withDec .faulted [] 0).dstate = .faulted ∧ Instr.decFeed [] ≠ .decEos) ∧
    (exec .decEos (withDec .faulted [] 0) = .next (raise (withDec .closed [] 0) .wasFaulted) ∧
      Instr.decEos ≠ .decReset ∧ Instr.decEos ≠ .softReset) :=
  ⟨⟨rfl, by decide, by decide, by decide⟩, ⟨rfl, by decide, by decide⟩, ⟨rfl, by decide, by decide⟩⟩

theorem witness_AesDecryptInvertsEncrypt : (zeros 16).length = 16 ∧ (rep 0xFF 16).length = 16 := by decide

theorem witness_AesCbcEncResult : (zeros 16).length = 16 ∧ (zeros 16).length = 16 := by decide

theorem witness_AesCbcRoundTrip : (zeros 16).length = 16 ∧ (zeros 16).length = 16 := by decide

/-- Each clause, with the key and the crafted blocks of 95_test_vectors.md V3.7: no bytes and 15 bytes; a last byte of 0 and
one of 17; a pad of 2 bytes of which one is wrong. -/
theorem witness_AesCbcDecErrors :
    ([] : Bytes).length = 0 ∧ (zeros 15).length % 16 ≠ 0 ∧
    (let key := hex "000102030405060708090a0b0c0d0e0f"
     (cbcDecBlocks key (zeros 16) (aesBlocks (hex "c6a13b37878f5b826f4f8162a1c8d879")) = zeros 15 ++ [0x00]) ∧
     (cbcDecBlocks key (zeros 16) (aesBlocks (hex "4493ada3306ce110f48157d8668959d7")) = zeros 15 ++ [0x11]) ∧
     (cbcDecBlocks key (zeros 16) (aesBlocks (hex "f662388a8a33596227d688d904beac4c")) = (zeros 14 ++ [0x01]) ++ [0x02])) ∧
    ((zeros 14 ++ [0x01]) ++ [0x02]).drop (((zeros 14 ++ [0x01]) ++ [0x02]).length - (0x02 : Byte).toNat) ≠
      List.replicate (0x02 : Byte).toNat 0x02 := by
  decide +kernel

theorem witness_ShaPadding : (zeros 55).length < 2 ^ 61 ∧ (zeros 56).length < 2 ^ 61 := by decide +kernel

/-- A key that the zero bytes fill to exactly the block of 64. -/
theorem witness_HmacZeroFill : (zeros 60).length + 4 ≤ 64 := by decide +kernel

theorem witness_HkdfExpandResult :
    (1 ≤ (1 : Half).toNat ∧ (1 : Half).toNat ≤ 8160) ∧ (1 ≤ (8160 : Half).toNat ∧ (8160 : Half).toNat ≤ 8160) ∧
    (0 : Half).toNat < 1 ∧ 8160 < (8161 : Half).toNat := by
  decide

theorem witness_HkdfExpandPrefix : 32 ≤ 76 := by decide

/-- x = 1 is on the curve (95_test_vectors.md V5.7). -/
theorem witness_LiftXOnCurve : ∃ y : Nat, liftX 1 = .ok (.affine 1 y) :=
  ⟨29896722852569046015560700294576055776214335159245303116488692907525646231534, by decide +kernel⟩

/-- Each clause: the scalars 1 and n - 1 with x = 1; the scalars 0 and n; x = 5, on no point. -/
theorem witness_EcdhResult :
    (∃ pt : Point, 1 ≤ intBe [0x01] ∧ intBe [0x01] < curveN ∧ liftX (intBe [0x01]) = .ok pt) ∧
    (1 ≤ intBe (beNat 32 (curveN - 1)) ∧ intBe (beNat 32 (curveN - 1)) < curveN) ∧
    intBe (zeros 32) = 0 ∧ curveN ≤ intBe (beNat 32 curveN) ∧
    (1 ≤ intBe [0x01] ∧ intBe [0x01] < curveN ∧ liftX (intBe [0x05]) = .error .point) := by
  refine ⟨⟨_, by decide, by decide, witness_LiftXOnCurve.choose_spec⟩, by decide +kernel, by decide +kernel, by decide +kernel,
    by decide +kernel⟩

theorem witness_EcdhScalarOne : ∃ pt : Point, (zeros 31 ++ [0x01]).length = 32 ∧ liftX (intBe (zeros 31 ++ [0x01])) = .ok pt :=
  ⟨_, by decide, witness_LiftXOnCurve.choose_spec⟩

theorem witness_EcdhParityIndependent : 1 < curveP ∧ 0 < curveP - 1 ∧ curveP - 1 < curveP := by decide +kernel

/-- Each clause: no data, the last block of the counter's range, and one byte more than it. -/
theorem witness_Chacha20Result :
    (0xFFFFFFFF : Word).toNat + ((zeros 64).length + 63) / 64 ≤ 2 ^ 32 ∧
    (zeros 65 ≠ [] ∧ 2 ^ 32 < (0xFFFFFFFF : Word).toNat + ((zeros 65).length + 63) / 64) := by
  decide +kernel

theorem witness_Chacha20SelfInverse : chacha20 (zeros 32) (zeros 12) 0 (zeros 2) = .ok [0x76, 0xb8] := by
  decide +kernel

theorem witness_Base64AcceptsOnlyEncoded : base64Decode [0x51, 0x51, 0x3d, 0x3d] = .ok [0x41] := by decide +kernel

theorem witness_PaddedLengthBounds : (1 ≤ 1 ∧ 1 ≤ 65535 ∧ 1 ≤ 65535) ∧ (1 ≤ 65535 ∧ 65535 ≤ 65535) := by decide

theorem witness_ConvkeyIsEcdhThenExtract :
    (∃ pt : Point, 1 ≤ intBe [0x01] ∧ intBe [0x01] < curveN ∧ liftX (intBe [0x01]) = .ok pt) ∧
    intBe (zeros 32) = 0 ∧ curveN ≤ intBe (beNat 32 curveN) ∧
    (1 ≤ intBe [0x01] ∧ intBe [0x01] < curveN ∧ liftX (intBe [0x05]) = .error .point) :=
  ⟨witness_EcdhResult.1, witness_EcdhResult.2.2⟩

/-- Each clause at its bounds. -/
theorem witness_Nip44EncryptResult :
    (zeros 32).length = 32 ∧ (1 ≤ (zeros 1).length ∧ (zeros 1).length ≤ 65535) ∧
    (1 ≤ (zeros 65535).length ∧ (zeros 65535).length ≤ 65535) ∧ (zeros 0).length < 1 ∧ 65535 < (zeros 65536).length := by
  rw [zeros_len, zeros_len, zeros_len, zeros_len, zeros_len]
  decide

/-- Each clause at its bounds: plaintexts of 1 and 65535 bytes; pads of 31 nonzero bytes and of 1. -/
theorem witness_Nip44RoundTrip :
    (zeros 32).length = 32 ∧ (1 ≤ (zeros 1).length ∧ (zeros 1).length ≤ 65535) ∧
    (1 ≤ (zeros 65535).length ∧ (zeros 65535).length ≤ 65535) ∧
    ((zeros 1).length + (rep 0xFF 31).length = calcPaddedLen (zeros 1).length ∧
      ∃ ct : Bytes, chacha20 (messageKeys [] (zeros 32)).streamKey (messageKeys [] (zeros 32)).streamNonce 0
        (be16 (BitVec.ofNat 16 (zeros 1).length) ++ zeros 1 ++ rep 0xFF 31) = .ok ct) ∧
    (zeros 65535).length + (rep 0xFF 1).length = calcPaddedLen (zeros 65535).length := by
  rw [zeros_len, zeros_len, zeros_len]
  exact ⟨by decide, by decide, by decide, ⟨by decide +kernel, _, if_neg (by decide +kernel)⟩, by decide +kernel⟩

/-- A ciphertext of the least legal length under a MAC of 32 zero bytes. -/
theorem witness_Nip44WrongMacRefused :
    (zeros 32).length = 32 ∧ 34 ≤ (zeros 34).length ∧ (zeros 34).length ≤ 65538 ∧
    hmac (slice (hkdfExpand [] (zeros 32) 76) 44 76) (zeros 32 ++ zeros 34) ≠ zeros 32 := by
  decide +kernel

end Sys2Proof.Tests
end

section
/-! The state of the block (10_state.md): what a command can write, the invariant that every step keeps, the reset values and
the CSR commands. -/

namespace Sys2Proof.Machine

/-! ### The completion of a command, and the commands that write no state -/

theorem CmdError.status_ne_zero (e : CmdError) : e.status ≠ 0 := by
  cases e <;> decide

/-- The status and sub-code of an error are a pair of the table of 60_exceptions.md R149. -/
theorem CmdError.pair_mem_statusPairs (e : CmdError) : statusPairs.contains (e.status.toNat, e.sub.toNat) = true := by
  cases e <;> decide

/-- What the completion of a command that writes no state can do. -/
theorem finish_cases (s : State) (r : Except CmdError (List Bytes)) :
    (∃ outs, finish s r = complete s outs) ∨ (∃ e, finish s r = raise s e) := by
  cases r with
  | ok outs => exact .inl ⟨outs, rfl⟩
  | error e => exact .inr ⟨e, rfl⟩

theorem finishOne_eq_finish (s : State) (r : Except CmdError Bytes) : finishOne s r = finish s (r.map ([·])) := by
  cases r <;> rfl

/-- The completion of a result that was computed without the state writes a status and a response that are the result's. -/
theorem finish_eq_record (r : Except CmdError (List Bytes)) :
    ∃ (st sub : Byte) (resp : Bytes), ∀ s : State,
      finish s r = { s with lastStatus := st, lastSub := sub, responses := s.responses ++ [resp] } := by
  cases r with
  | ok outs => exact ⟨statusOk, 0, responseBytes statusOk 0 outs, fun _ => rfl⟩
  | error e => exact ⟨e.status, e.sub, responseBytes e.status e.sub [], fun _ => rfl⟩

/-- A pure command computes its result from its operands alone (20_memory.md R39). -/
theorem exec_of_isPure {i : Instr} (h : isPure i = true) :
    ∃ r : Except CmdError (List Bytes), ∀ s : State, exec i s = .next (finish s r) := by
  have of_outputs {j : Instr} (outs : List Bytes) (hj : ∀ s, exec j s = .next (complete s outs)) :
      ∃ r : Except CmdError (List Bytes), ∀ s : State, exec j s = .next (finish s r) := ⟨.ok outs, hj⟩
  have of_result {j : Instr} (r : Except CmdError Bytes) (hj : ∀ s, exec j s = .next (finishOne s r)) :
      ∃ r : Except CmdError (List Bytes), ∀ s : State, exec j s = .next (finish s r) :=
    ⟨r.map ([·]), fun s => by rw [hj, finishOne_eq_finish]⟩
  cases i with
  | nop => exact of_outputs _ fun _ => rfl
  | frameEncode mt cid pk iv payload => exact of_outputs _ fun _ => rfl
  | aesCbcEnc key iv pt => exact of_outputs _ fun _ => rfl
  | hmacSha256 key msg => exact of_outputs _ fun _ => rfl
  | hkdfExtract salt ikm => exact of_outputs _ fun _ => rfl
  | crc16 data start stop => exact of_result _ fun _ => rfl
  | aesCbcDec key iv ct => exact of_result _ fun _ => rfl
  | hkdfExpand prk info len => exact of_result _ fun _ => rfl
  | ecdhX d x => exact of_result _ fun _ => rfl
  | chacha20 key nonce ctr data => exact of_result _ fun _ => rfl
  | nip44Convkey d x => exact of_result _ fun _ => rfl
  | nip44Encrypt ck nonce pt => exact of_result _ fun _ => rfl
  | nip44Decrypt ck payload => exact of_result _ fun _ => rfl
  | csrRead | csrWrite | softReset | crcInit | crcUpdate | decFeed | decEos | decReset => cases h

/-- Settles O13: a pure command completes with a result that its operands fix. -/
theorem pureCommandsIgnoreState : Obligations.PureCommandsIgnoreState := by
  intro i hpure
  obtain ⟨r, hexec⟩ := exec_of_isPure hpure
  obtain ⟨st, sub, resp, hfinish⟩ := finish_eq_record r
  exact ⟨st, sub, resp, fun s => by rw [hexec, hfinish]⟩

/-! ### What each command can write (20_memory.md R39) -/

/-- `Writes s i u`: the command `i`, where it completes from `s`, has written `u` before its status. -/
inductive Writes (s : State) : Instr → State → Prop
  | pure {i : Instr} (h : isPure i = true) : Writes s i s
  | csrRead (a : Half) : Writes s (.csrRead a) s
  | csrCrc (v : Word) : Writes s (.csrWrite 0x0002 v) (s.withCrc (v.setWidth 16))
  | csrMaxpay (v : Word) : Writes s (.csrWrite 0x0003 v) (s.withMaxpay (cappedMaxpay s v))
  | softReset : Writes s .softReset (resetRecord s)
  | crcInit : Writes s .crcInit (s.withCrc 0xFFFF)
  | crcUpdate (data : Bytes) : Writes s (.crcUpdate data) (s.withCrc (crcFold s.crc data))
  | decFeed (chunk : Bytes) (h : DecoderOpen s) : Writes s (.decFeed chunk) (feedBytes s chunk).1
  | decReset : Writes s .decReset (resetDecoder s)

/-- What a DEC_FEED can do: be refused in the sticky states, or run its loop. -/
theorem exec_decFeed_cases (chunk : Bytes) (s : State) :
    (∃ e, exec (.decFeed chunk) s = .next (raise s e)) ∨
    (DecoderOpen s ∧ exec (.decFeed chunk) s = .next (complete (feedBytes s chunk).1 (feedBytes s chunk).2)) := by
  show (∃ e, execDecFeed chunk s = _) ∨ (_ ∧ execDecFeed chunk s = _)
  unfold execDecFeed
  cases h : s.dstate with
  | awaitHeader => exact .inr ⟨.inl h, rfl⟩
  | awaitPayload => exact .inr ⟨.inr h, rfl⟩
  | closed => exact .inl ⟨.alreadyClosed, rfl⟩
  | faulted => exact .inl ⟨.faulted, rfl⟩

theorem exec_csrWrite_of_ok {s u : State} {a : Half} {v : Word} (h : csrStore s a v = .ok u) :
    exec (.csrWrite a v) s = .next (complete u []) := by
  show execCsrWrite a v s = _
  rw [execCsrWrite, h]

theorem exec_csrWrite_of_error {s : State} {a : Half} {v : Word} {e : CmdError} (h : csrStore s a v = .error e) :
    exec (.csrWrite a v) s = .next (raise s e) := by
  show execCsrWrite a v s = _
  rw [execCsrWrite, h]

/-- What a command can do: complete, having written what its row of 20_memory.md R39 names; raise, having written nothing;
or, for DEC_EOS alone, close the decoder and raise (41_frame_codec.md R83). -/
theorem exec_cases (i : Instr) (s : State) :
    (∃ u outs, Writes s i u ∧ exec i s = .next (complete u outs)) ∨
    (∃ e, exec i s = .next (raise s e)) ∨
    (i = .decEos ∧ exec i s = .next (raise (s.withDecoder .closed [] 0) (eosError s))) := by
  by_cases hpure : isPure i = true
  · obtain ⟨r, hexec⟩ := exec_of_isPure hpure
    rw [hexec]
    rcases finish_cases s r with ⟨outs, h⟩ | ⟨e, h⟩
    · exact .inl ⟨s, outs, .pure hpure, congrArg _ h⟩
    · exact .inr (.inl ⟨e, congrArg _ h⟩)
  cases i with
  | csrRead a =>
    rcases finishOne_cases s ((csrValue s a).map be32) with ⟨out, -, h⟩ | ⟨e, -, h⟩
    · exact .inl ⟨s, [out], .csrRead a, congrArg _ h⟩
    · exact .inr (.inl ⟨e, congrArg _ h⟩)
  | csrWrite a v =>
    rcases csrStore_cases s a v with ⟨rfl, h⟩ | ⟨rfl, h⟩ | ⟨-, h⟩ | ⟨-, h⟩
    · exact .inl ⟨_, [], .csrCrc v, exec_csrWrite_of_ok h⟩
    · exact .inl ⟨_, [], .csrMaxpay v, exec_csrWrite_of_ok h⟩
    · exact .inr (.inl ⟨_, exec_csrWrite_of_error h⟩)
    · exact .inr (.inl ⟨_, exec_csrWrite_of_error h⟩)
  | softReset => exact .inl ⟨_, [], .softReset, rfl⟩
  | crcInit => exact .inl ⟨_, [], .crcInit, rfl⟩
  | crcUpdate data => exact .inl ⟨_, _, .crcUpdate data, rfl⟩
  | decFeed chunk =>
    rcases exec_decFeed_cases chunk s with herr | ⟨hopen, h⟩
    · exact .inr (.inl herr)
    · exact .inl ⟨_, _, .decFeed chunk hopen, h⟩
  | decEos => exact .inr (.inr ⟨rfl, rfl⟩)
  | decReset => exact .inl ⟨_, [], .decReset, rfl⟩
  | _ => exact absurd rfl hpure

/-! ### Every command answers once -/

theorem feedBytes_cfg (s : State) (bs : Bytes) : (feedBytes s bs).1.cfg = s.cfg := by
  rw [feedBytes_frame]; rfl

theorem feedBytes_pending (s : State) (bs : Bytes) : (feedBytes s bs).1.pending = s.pending := by
  rw [feedBytes_frame]; rfl

theorem feedBytes_responses (s : State) (bs : Bytes) : (feedBytes s bs).1.responses = s.responses := by
  rw [feedBytes_frame]; rfl

/-- Before its status, a command has written neither the port nor the parameters. -/
theorem Writes.keeps_port {s u : State} {i : Instr} (h : Writes s i u) :
    u.pending = s.pending ∧ u.cfg = s.cfg ∧ u.responses = s.responses := by
  cases h with
  | decFeed chunk => exact ⟨feedBytes_pending s chunk, feedBytes_cfg s chunk, feedBytes_responses s chunk⟩
  | _ => exact ⟨rfl, rfl, rfl⟩

/-- `t` is `s` after one response that carries the status of `t`, the rest of the port and the parameters kept; what the
step on a descriptor leaves (30_encoding.md R52, R65). -/
def AnsweredOnce (s t : State) : Prop :=
  t.pending = s.pending ∧ t.cfg = s.cfg ∧
    ∃ outs, t.responses = s.responses ++ [responseBytes t.lastStatus t.lastSub outs] ∧
      (t.lastStatus = 0 → t.lastSub = 0) ∧ (t.lastStatus ≠ 0 → outs = [])

theorem answeredOnce_complete {s u : State} {i : Instr} (h : Writes s i u) (outs : List Bytes) :
    AnsweredOnce s (complete u outs) := by
  obtain ⟨hpending, hcfg, hresponses⟩ := h.keeps_port
  exact ⟨hpending, hcfg, outs, by simp [hresponses], by simp, by simp⟩

theorem answeredOnce_raise (s : State) (e : CmdError) : AnsweredOnce s (raise s e) :=
  ⟨rfl, rfl, [], rfl, fun h => absurd h e.status_ne_zero, fun _ => rfl⟩

theorem exec_answersOnce (i : Instr) (s : State) : ∃ t, exec i s = .next t ∧ AnsweredOnce s t := by
  rcases exec_cases i s with ⟨u, outs, hw, h⟩ | ⟨e, h⟩ | ⟨-, h⟩
  · exact ⟨_, h, answeredOnce_complete hw outs⟩
  · exact ⟨_, h, answeredOnce_raise s e⟩
  · exact ⟨_, h, answeredOnce_raise (s.withDecoder .closed [] 0) _⟩

/-- A step with a descriptor waiting takes it off the port and answers it. -/
theorem step_answersOnce {s : State} {d : Bytes} {ds : List Bytes} (hp : s.pending = d :: ds) :
    ∃ t, step s = .next t ∧ AnsweredOnce (s.withPending ds) t := by
  rcases step_cases s with ⟨hidle, -⟩ | ⟨d', ds', e, hp', -, h⟩ | ⟨d', ds', i, hp', -, h⟩
  · simp [hidle] at hp
  · obtain ⟨rfl, rfl⟩ := List.cons.inj (hp.symm.trans hp')
    exact ⟨_, h, answeredOnce_raise _ e⟩
  · obtain ⟨rfl, rfl⟩ := List.cons.inj (hp.symm.trans hp')
    rw [h]
    exact exec_answersOnce i _

/-- Settles O10. -/
theorem everyCommandAnswers : Obligations.EveryCommandAnswers := by
  intro s desc ds hp
  obtain ⟨t, hstep, hpending, hcfg, outs, hresponses, hok, herr⟩ := step_answersOnce hp
  exact ⟨t, outs, hstep, hpending, hcfg, hresponses, hok, herr⟩

/-! ### The decoder's table, one line per decoder state (10_state.md R28) -/

theorem decoderWf_awaitHeader {s : State} (h : s.dstate = .awaitHeader) :
    decoderWf s = true ↔ s.dbuf.length ≤ 71 ∧ s.dlen = 0 := by
  simp [decoderWf, h]

theorem decoderWf_awaitPayload {s : State} (h : s.dstate = .awaitPayload) :
    decoderWf s = true ↔
      72 ≤ s.dbuf.length ∧ s.dbuf.length ≤ 73 + s.dlen.toNat ∧ s.dlen = headerPayloadLength s.dbuf ∧
        s.dlen ≤ s.cfg.payloadBufMax := by
  simp [decoderWf, h, headerPayloadLength, and_assoc]

/-- Outside AWAIT_PAYLOAD, the decoder with nothing buffered meets its row of the table. -/
theorem decoderWf_withDecoder_nil (s : State) (d : DState) (h : d ≠ .awaitPayload) :
    decoderWf (s.withDecoder d [] 0) = true := by
  cases d with
  | awaitPayload => exact absurd rfl h
  | _ => rfl

/-- The length field of a header is read from its 72 bytes, whatever follows them. -/
theorem headerPayloadLength_append {buf : Bytes} (h : 72 ≤ buf.length) (more : Bytes) :
    headerPayloadLength (buf ++ more) = headerPayloadLength buf := by
  have hdrop : (buf ++ more).drop 68 = buf.drop 68 ++ more := List.drop_append_of_le_length (by omega)
  have htake : (buf.drop 68 ++ more).take 4 = (buf.drop 68).take 4 :=
    List.take_append_of_le_length (by rw [List.length_drop]; omega)
  rw [headerPayloadLength, slice, hdrop, htake]
  rfl

/-! ### The invariant without the status, and that every write keeps it -/

/-- `State.wf` without the status pair, which every command writes anew. -/
structure State.RecordWf (s : State) : Prop where
  decoder : decoderWf s = true
  cap : s.maxpay ≤ s.cfg.payloadBufMax
  params : s.cfg.Valid

theorem State.wf_iff {s : State} : s.wf = true ↔ statusLegal s = true ∧ s.RecordWf := by
  simp only [State.wf, Bool.and_eq_true, decide_eq_true_eq]
  constructor
  · rintro ⟨⟨⟨hstatus, hdecoder⟩, hcap⟩, hparams⟩
    exact ⟨hstatus, hdecoder, hcap, hparams⟩
  · rintro ⟨hstatus, hdecoder, hcap, hparams⟩
    exact ⟨⟨⟨hstatus, hdecoder⟩, hcap⟩, hparams⟩

theorem State.RecordWf.wf_complete {u : State} (h : u.RecordWf) (outs : List Bytes) : (complete u outs).wf = true :=
  State.wf_iff.2 ⟨rfl, h.decoder, h.cap, h.params⟩

theorem State.RecordWf.wf_raise {u : State} (h : u.RecordWf) (e : CmdError) : (raise u e).wf = true :=
  State.wf_iff.2 ⟨e.pair_mem_statusPairs, h.decoder, h.cap, h.params⟩

theorem State.RecordWf.withDecoder {s : State} (h : s.RecordWf) {d : DState} {buf : Bytes} {len : Word}
    (hd : decoderWf (s.withDecoder d buf len) = true) : (s.withDecoder d buf len).RecordWf :=
  ⟨hd, h.cap, h.params⟩

/-- A byte in AWAIT_HEADER keeps the table: 72 bytes complete the header, and only one within the cap is kept. -/
theorem headerByte_keeps_recordWf {s : State} (hs : s.dstate = .awaitHeader) (h : s.RecordWf) (b : Byte) :
    (headerByte s b).1.RecordWf := by
  obtain ⟨hbuf, hlen⟩ := (decoderWf_awaitHeader hs).1 h.decoder
  rcases headerByte_cases s b with ⟨hne, e⟩ | ⟨-, -, e⟩ | ⟨heq, hcap, e⟩ <;> rw [e]
  · have hd : (s.withDecoder s.dstate (s.dbuf ++ [b]) s.dlen).dstate = .awaitHeader := hs
    refine h.withDecoder ((decoderWf_awaitHeader hd).2 ⟨?_, hlen⟩)
    simp only [List.length_append, List.length_singleton, State.withDecoder_dbuf] at hne ⊢
    omega
  · exact h.withDecoder (decoderWf_withDecoder_nil s _ (by decide))
  · refine h.withDecoder ((decoderWf_awaitPayload rfl).2 ⟨heq.ge, ?_, rfl, ?_⟩)
    · simp only [State.withDecoder_dbuf, heq]
      omega
    · exact BitVec.le_trans (BitVec.not_lt.1 hcap) h.cap

/-- A byte in AWAIT_PAYLOAD keeps the table: the buffer stays below the frame's length, and its header is not touched. -/
theorem payloadByte_keeps_recordWf {s : State} (hs : s.dstate = .awaitPayload) (h : s.RecordWf) (b : Byte) :
    (payloadByte s b).1.RecordWf := by
  obtain ⟨hmin, hmax, hlen, hcap⟩ := (decoderWf_awaitPayload hs).1 h.decoder
  rcases payloadByte_cases s b with ⟨hne, e⟩ | ⟨-, e⟩ <;> rw [e]
  · have hd : (s.withDecoder s.dstate (s.dbuf ++ [b]) s.dlen).dstate = .awaitPayload := hs
    refine h.withDecoder ((decoderWf_awaitPayload hd).2 ⟨?_, ?_, ?_, hcap⟩)
    · simp only [State.withDecoder_dbuf, List.length_append]
      omega
    · simp only [State.withDecoder_dbuf, State.withDecoder_dlen, List.length_append, List.length_singleton] at hne ⊢
      omega
    · exact hlen.trans (headerPayloadLength_append hmin [b]).symm
  · exact h.withDecoder (decoderWf_withDecoder_nil s _ (by decide))

theorem feedByte_keeps_recordWf {s : State} (ho : DecoderOpen s) (h : s.RecordWf) (b : Byte) :
    (feedByte s b).1.RecordWf := by
  rcases ho with hs | hs
  · simpa [feedByte, hs] using headerByte_keeps_recordWf hs h b
  · simpa [feedByte, hs] using payloadByte_keeps_recordWf hs h b

/-- A byte never closes the decoder: it leaves it open or FAULTED. -/
theorem feedByte_open {s : State} (ho : DecoderOpen s) (b : Byte) (hf : (feedByte s b).1.dstate ≠ .faulted) :
    DecoderOpen (feedByte s b).1 := by
  unfold feedByte at hf ⊢
  split at hf
  · next hs =>
    rw [if_pos hs]
    rcases headerByte_cases s b with ⟨-, e⟩ | ⟨-, -, e⟩ | ⟨-, -, e⟩ <;> rw [e] at hf ⊢
    · exact ho
    · exact absurd rfl hf
    · exact .inr rfl
  · next hs =>
    rw [if_neg hs]
    rcases payloadByte_cases s b with ⟨-, e⟩ | ⟨-, e⟩ <;> rw [e]
    · exact ho
    · exact .inl rfl

theorem feedBytes_keeps_recordWf {s : State} (ho : DecoderOpen s) (h : s.RecordWf) (bs : Bytes) :
    (feedBytes s bs).1.RecordWf := by
  induction bs generalizing s with
  | nil => exact h
  | cons b bs ih =>
    unfold feedBytes
    split
    · exact feedByte_keeps_recordWf ho h b
    · next hf => exact ih (feedByte_open ho b hf) (feedByte_keeps_recordWf ho h b)

theorem Writes.keeps_recordWf {s u : State} {i : Instr} (hw : Writes s i u) (h : s.RecordWf) : u.RecordWf := by
  cases hw with
  | pure | csrRead => exact h
  | csrCrc | crcInit | crcUpdate => exact ⟨h.decoder, h.cap, h.params⟩
  | csrMaxpay v => exact ⟨h.decoder, cappedMaxpay_le s v, h.params⟩
  | softReset => exact ⟨rfl, BitVec.le_refl _, h.params⟩
  | decFeed chunk ho => exact feedBytes_keeps_recordWf ho h chunk
  | decReset => exact h.withDecoder rfl

/-- A command leaves a well-formed state whatever status the state before it held. -/
theorem exec_keeps_wf {i : Instr} {s t : State} (h : s.RecordWf) (he : exec i s = .next t) : t.wf = true := by
  rcases exec_cases i s with ⟨u, outs, hw, e⟩ | ⟨err, e⟩ | ⟨-, e⟩ <;> obtain rfl := by simpa [he] using e
  · exact (hw.keeps_recordWf h).wf_complete outs
  · exact h.wf_raise err
  · exact (h.withDecoder (decoderWf_withDecoder_nil s _ (by decide))).wf_raise _

/-- Settles O15: each write of a command keeps the record, and the status that the command then writes is legal. -/
theorem stepKeepsStateWf : Obligations.StepKeepsStateWf := by
  intro s t hwf hstep
  obtain ⟨-, hdecoder, hcap, hparams⟩ := State.wf_iff.1 hwf
  have hrecord (ds : List Bytes) : (s.withPending ds).RecordWf := ⟨hdecoder, hcap, hparams⟩
  rcases step_cases s with ⟨-, e⟩ | ⟨d, ds, err, -, -, e⟩ | ⟨d, ds, i, -, -, e⟩ <;> rw [hstep] at e
  · obtain rfl := by simpa using e
    exact hwf
  · obtain rfl := by simpa using e
    exact (hrecord ds).wf_raise err
  · exact exec_keeps_wf (hrecord ds) e.symm

/-- Settles O16. -/
theorem resetIsWf : Obligations.ResetIsWf :=
  State.wf_iff.2 ⟨rfl, rfl, by decide, by decide⟩

/-! ### The six CSRs (10_state.md R18-R23) -/

@[simp] theorem csrValue_id (s : State) : csrValue s 0x0000 = .ok csrId := rfl

@[simp] theorem csrValue_status (s : State) : csrValue s 0x0001 = .ok (csrStatus s) := rfl

@[simp] theorem csrValue_crc (s : State) : csrValue s 0x0002 = .ok (s.crc.setWidth 32) := rfl

@[simp] theorem csrValue_maxpay (s : State) : csrValue s 0x0003 = .ok s.maxpay := rfl

@[simp] theorem csrValue_dbufLength (s : State) : csrValue s 0x0004 = .ok (length32 s.dbuf.length) := rfl

@[simp] theorem csrValue_dlen (s : State) : csrValue s 0x0005 = .ok s.dlen := rfl

/-- An address from 0x0006 up is none of the six (10_state.md R24). -/
theorem csr_address_ne {a : Half} (h : 0x0006 ≤ a.toNat) :
    a ≠ 0x0000 ∧ a ≠ 0x0001 ∧ a ≠ 0x0002 ∧ a ≠ 0x0003 ∧ a ≠ 0x0004 ∧ a ≠ 0x0005 := by
  refine ⟨?_, ?_, ?_, ?_, ?_, ?_⟩ <;> rintro rfl <;> simp at h

theorem csrValue_unimplemented (s : State) {a : Half} (h : 0x0006 ≤ a.toNat) : csrValue s a = .error .csrAddr := by
  obtain ⟨h0, h1, h2, h3, h4, h5⟩ := csr_address_ne h
  rw [csrValue, if_neg h0, if_neg h1, if_neg h2, if_neg h3, if_neg h4, if_neg h5]

theorem csrStore_unimplemented (s : State) {a : Half} (v : Word) (h : 0x0006 ≤ a.toNat) :
    csrStore s a v = .error .csrAddr := by
  obtain ⟨h0, h1, h2, h3, h4, h5⟩ := csr_address_ne h
  rw [csrStore, if_neg (not_or.2 ⟨h0, not_or.2 ⟨h1, not_or.2 ⟨h4, h5⟩⟩⟩), if_neg h2, if_neg h3]

/-! ### The reset values (10_state.md R31) -/

/-- Every field of the record of 10_state.md R15 at its value after a reset (R31). -/
structure AtReset (t : State) : Prop where
  crc : t.crc = 0xFFFF
  dstate : t.dstate = .awaitHeader
  dbuf : t.dbuf = []
  dlen : t.dlen = 0
  maxpay : t.maxpay = t.cfg.payloadBufMax
  lastStatus : t.lastStatus = 0x00
  lastSub : t.lastSub = 0x00

theorem atReset_reset : AtReset State.reset := ⟨rfl, rfl, rfl, rfl, rfl, rfl, rfl⟩

theorem atReset_powerOnReset (s : State) : AtReset (powerOnReset s) := ⟨rfl, rfl, rfl, rfl, rfl, rfl, rfl⟩

/-- SOFT_RESET's own status write, OK, is the reset value. -/
theorem atReset_softReset {s t : State} (h : exec .softReset s = .next t) : AtReset t := by
  obtain rfl : complete (resetRecord s) [] = t := by simpa [exec, execSoftReset] using h
  exact ⟨rfl, rfl, rfl, rfl, rfl, rfl, rfl⟩

theorem AtReset.csrStatus_eq {t : State} (h : AtReset t) : csrStatus t = 0x00000000 := by
  rw [csrStatus, h.dstate, h.lastSub, h.lastStatus]
  rfl

/-- Settles O17: the three resets leave every field at its reset value, and the CSRs are views of the fields. -/
theorem resetValues : Obligations.ResetValues := by
  refine ⟨rfl, fun s t ht => ?_⟩
  have h : AtReset t := by
    rcases ht with rfl | rfl | ht
    · exact atReset_reset
    · exact atReset_powerOnReset s
    · exact atReset_softReset ht
  refine ⟨h.crc, h.dstate, h.dbuf, h.dlen, h.maxpay, h.lastStatus, h.lastSub, rfl, ?_, ?_, ?_, ?_, ?_⟩
  · rw [csrValue_status, h.csrStatus_eq]
  · rw [csrValue_crc, h.crc]; rfl
  · rw [csrValue_maxpay, h.maxpay]
  · rw [csrValue_dbufLength, h.dbuf]; rfl
  · rw [csrValue_dlen, h.dlen]

/-! ### CSR_READ and CSR_WRITE (47_control.md R145, R146) -/

theorem exec_csrRead_of_ok {s : State} {a : Half} {w : Word} (h : csrValue s a = .ok w) :
    exec (.csrRead a) s = .next (afterOk s [be32 w]) := by
  show execCsrRead a s = _
  rw [execCsrRead, h]
  rfl

theorem exec_csrRead_of_error {s : State} {a : Half} {e : CmdError} (h : csrValue s a = .error e) :
    exec (.csrRead a) s = .next (raise s e) := by
  show execCsrRead a s = _
  rw [execCsrRead, h]
  rfl

/-- The four bytes of a word joined from a half and two bytes. -/
theorem be32_append (x : Half) (y z : Byte) : be32 (x ++ y ++ z) = be16 x ++ [y, z] := by
  have h24 : (x ++ y ++ z).extractLsb' 24 8 = x.extractLsb' 8 8 :=
    (extract_append_high (x ++ y) z 16 8).trans (extract_append_high x y 8 8)
  have h16 : (x ++ y ++ z).extractLsb' 16 8 = x.extractLsb' 0 8 :=
    (extract_append_high (x ++ y) z 8 8).trans (extract_append_high x y 0 8)
  have h8 : (x ++ y ++ z).extractLsb' 8 8 = y := (extract_append_high (x ++ y) z 0 8).trans (extract_append_low x y)
  have h0 : (x ++ y ++ z).extractLsb' 0 8 = z := extract_append_low (x ++ y) z
  rw [be32, h24, h16, h8, h0]
  rfl

theorem be32_setWidth (v : Half) : be32 (v.setWidth 32) = [0x00, 0x00] ++ be16 v := by
  have hv : v.setWidth 32 = (0 : Half) ++ v.extractLsb' 8 8 ++ v.extractLsb' 0 8 := by
    rw [BitVec.append_assoc, BitVec.cast_eq, join_halfBytes, BitVec.setWidth_eq_append (by decide)]
    rfl
  rw [hv, be32_append]
  rfl

/-- The DEC_STATE bits stand in the second byte of the STATUS word, all bits above them 0 (10_state.md R19). -/
theorem be16_zero_append_code (d : DState) :
    be16 ((0 : BitVec 14) ++ d.code) = [0x00, d.code.setWidth 8] := by
  cases d <;> rfl

/-- Settles O20: each register's value, and the bytes of that value. -/
theorem csrReadResult : Obligations.CsrReadResult := by
  intro s
  refine ⟨exec_csrRead_of_ok (csrValue_id s), ?status, ?crc, exec_csrRead_of_ok (csrValue_maxpay s), fun hlen => ?dbuf,
    exec_csrRead_of_ok (csrValue_dlen s)⟩
  case status =>
    rw [exec_csrRead_of_ok (csrValue_status s), csrStatus, be32_append, be16_zero_append_code]
    cases s.dstate <;> rfl
  case crc => rw [exec_csrRead_of_ok (csrValue_crc s), be32_setWidth]
  case dbuf => rw [exec_csrRead_of_ok (csrValue_dbufLength s), length32, if_pos hlen]

/-- Settles O21. -/
theorem unimplementedCsr : Obligations.UnimplementedCsr := fun s _ v h =>
  ⟨exec_csrRead_of_error (csrValue_unimplemented s h), exec_csrWrite_of_error (csrStore_unimplemented s v h)⟩

/-- The cap is the minimum (10_state.md R21). -/
theorem cappedMaxpay_eq_min (s : State) (v : Word) :
    cappedMaxpay s v = BitVec.ofNat 32 (min v.toNat s.cfg.payloadBufMax.toNat) := by
  unfold cappedMaxpay
  split
  · next h => rw [Nat.min_eq_left (BitVec.le_def.1 h), BitVec.ofNat_toNat, BitVec.setWidth_eq]
  · next h =>
    rw [Nat.min_eq_right (BitVec.le_def.1 (BitVec.le_of_lt (BitVec.not_le.1 h))), BitVec.ofNat_toNat, BitVec.setWidth_eq]

theorem csrStore_readOnly (s : State) {a : Half} (v : Word) (h : a ∈ ([0x0000, 0x0001, 0x0004, 0x0005] : List Half)) :
    csrStore s a v = .error .csrRo :=
  if_pos (by simpa using h)

theorem csrStore_crc (s : State) (v : Word) : csrStore s 0x0002 v = .ok (s.withCrc (v.setWidth 16)) := rfl

theorem csrStore_maxpay (s : State) (v : Word) : csrStore s 0x0003 v = .ok (s.withMaxpay (cappedMaxpay s v)) := rfl

/-- Settles O22. -/
theorem csrWriteResult : Obligations.CsrWriteResult := by
  intro s v
  refine ⟨?crc, ?maxpay, fun a ha => exec_csrWrite_of_error (csrStore_readOnly s v ha)⟩
  case crc =>
    rw [BitVec.ofNat_toNat]
    exact exec_csrWrite_of_ok (csrStore_crc s v)
  case maxpay =>
    rw [← cappedMaxpay_eq_min]
    exact exec_csrWrite_of_ok (csrStore_maxpay s v)

end Sys2Proof.Machine
end

section
/-! The frames of the commands that write the state (20_memory.md R39). -/

namespace Sys2Proof.Machine

/-- CSR_READ: the status and the response alone, whether the address names a register or not. -/
theorem exec_csrRead_frame {s t : State} {a : Half} (h : exec (.csrRead a) s = .next t) :
    ∃ st sub outs, t = respond s st sub outs := by
  cases hv : csrValue s a with
  | ok w => exact ⟨statusOk, 0, [be32 w], Host.Outcome.next.inj (h.symm.trans (exec_csrRead_of_ok hv))⟩
  | error e => exact ⟨e.status, e.sub, [], Host.Outcome.next.inj (h.symm.trans (exec_csrRead_of_error hv))⟩

/-- CSR_WRITE: CRC_STATE and DEC_MAXPAY are the two writable registers (10_state.md R20, R21). -/
theorem exec_csrWrite_frame {s t : State} {a : Half} {v : Word} (h : exec (.csrWrite a v) s = .next t) :
    ∃ crc maxpay st sub outs, t = respond ((s.withCrc crc).withMaxpay maxpay) st sub outs := by
  have of_ok {u : State} (hu : csrStore s a v = .ok u) : t = complete u [] :=
    Host.Outcome.next.inj (h.symm.trans (exec_csrWrite_of_ok hu))
  have of_error {e : CmdError} (he : csrStore s a v = .error e) : t = raise s e :=
    Host.Outcome.next.inj (h.symm.trans (exec_csrWrite_of_error he))
  rcases csrStore_cases s a v with ⟨-, hu⟩ | ⟨-, hu⟩ | ⟨-, he⟩ | ⟨-, he⟩
  · exact ⟨v.setWidth 16, s.maxpay, statusOk, 0, [], of_ok hu⟩
  · exact ⟨s.crc, cappedMaxpay s v, statusOk, 0, [], of_ok hu⟩
  · exact ⟨s.crc, s.maxpay, _, _, [], of_error he⟩
  · exact ⟨s.crc, s.maxpay, _, _, [], of_error he⟩

theorem exec_crc_frame {i : Instr} {s t : State} (hi : i = .crcInit ∨ ∃ data, i = .crcUpdate data)
    (h : exec i s = .next t) : ∃ crc st sub outs, t = respond (s.withCrc crc) st sub outs := by
  rcases hi with rfl | ⟨data, rfl⟩
  · exact ⟨0xFFFF, statusOk, 0, [], (Host.Outcome.next.inj h).symm⟩
  · exact ⟨crcFold s.crc data, statusOk, 0, _, (Host.Outcome.next.inj h).symm⟩

/-- A chunk changes the decoder alone (`feedBytes_frame`), the end of the stream closes it and the reset reopens it. -/
theorem exec_decoder_frame {i : Instr} {s t : State} (hi : (∃ chunk, i = .decFeed chunk) ∨ i = .decEos ∨ i = .decReset)
    (h : exec i s = .next t) : ∃ d buf len st sub outs, t = respond (s.withDecoder d buf len) st sub outs := by
  rcases hi with ⟨chunk, rfl⟩ | rfl | rfl
  · rcases exec_decFeed_cases chunk s with ⟨e, hexec⟩ | ⟨-, hexec⟩
    · exact ⟨s.dstate, s.dbuf, s.dlen, e.status, e.sub, [], Host.Outcome.next.inj (h.symm.trans hexec)⟩
    · rw [feedBytes_frame] at hexec
      exact ⟨_, _, _, statusOk, 0, _, Host.Outcome.next.inj (h.symm.trans hexec)⟩
  · exact ⟨.closed, [], 0, (eosError s).status, (eosError s).sub, [], (Host.Outcome.next.inj h).symm⟩
  · exact ⟨.awaitHeader, [], 0, statusOk, 0, [], (Host.Outcome.next.inj h).symm⟩

/-- Settles O14: each command's next state is its frame, read back field by field. -/
theorem statefulCommandsFrame : Obligations.StatefulCommandsFrame := by
  refine fun s t => ⟨fun a h => ?csrRead, fun a v h => ?csrWrite, fun i hi h => ?crc, fun i hi h => ?decoder⟩
  case csrRead =>
    obtain ⟨st, sub, outs, rfl⟩ := exec_csrRead_frame h
    rfl
  case csrWrite =>
    obtain ⟨crc, maxpay, st, sub, outs, rfl⟩ := exec_csrWrite_frame h
    rfl
  case crc =>
    obtain ⟨crc, st, sub, outs, rfl⟩ := exec_crc_frame hi h
    rfl
  case decoder =>
    obtain ⟨d, buf, len, st, sub, outs, rfl⟩ := exec_decoder_frame hi h
    rfl

end Sys2Proof.Machine
end

section
/-! The encoding of commands (30_encoding.md R48-R57): the decoder's header and operand checks one at a time, and the two
round trips between commands and descriptors. -/

namespace Sys2Proof.Machine

/-! ### Integers and their big-endian bytes -/

theorem be16_u16be_of_length {b : Bytes} (h : b.length = 2) : be16 (u16be b) = b := by
  obtain ⟨x, y, rfl⟩ := List.length_eq_two.1 h
  exact be16_u16be x y []

theorem be32_u32be_of_length {b : Bytes} (h : b.length = 4) : be32 (u32be b) = b := by
  simpa [List.drop_eq_nil_of_le h.le] using be32_u32be_append_drop h.ge

theorem toNat_u16be (a b : Byte) (rest : Bytes) : (u16be (a :: b :: rest)).toNat = 256 * a.toNat + b.toNat := by
  have happend : (a ++ b).toNat = a.toNat <<< 8 ||| b.toNat := BitVec.toNat_append a b
  have hadd : a.toNat <<< 8 ||| b.toNat = a.toNat <<< 8 + b.toNat := (Nat.shiftLeft_add_eq_or_of_lt b.isLt _).symm
  show (a ++ b).toNat = _
  rw [happend, hadd, Nat.shiftLeft_eq]
  omega

theorem toNat_ofNat_length {b : Bytes} (h : b.length < 2 ^ 32) : (BitVec.ofNat 32 b.length).toNat = b.length := by
  rw [BitVec.toNat_ofNat, Nat.mod_eq_of_lt h]

/-! ### The opcode map (30_encoding.md R54-R56) -/

theorem mem_opcodeMap (o : Opcode) : o ∈ opcodeMap := by
  cases o <;> decide

theorem opcodeOf_eq_some_iff {b : Byte} {o : Opcode} : opcodeOf b = some o ↔ opcodeByte o = b :=
  ⟨opcodeByte_of_opcodeOf, fun h => h ▸ opcodeOf_opcodeByte o⟩

/-- The rows of the opcode map as numbers: opcode and operand count (30_encoding.md R54). -/
def opcodeRows : List (Nat × Nat) := opcodeMap.map fun o => ((opcodeByte o).toNat, operandCount o)

theorem mem_opcodeRows_iff {b : Byte} {n : Nat} :
    (b.toNat, n) ∈ opcodeRows ↔ ∃ o, opcodeOf b = some o ∧ operandCount o = n := by
  simp [opcodeRows, mem_opcodeMap, opcodeOf_eq_some_iff, BitVec.toNat_inj]

theorem opcodeOf_eq_none_of_rows {b : Byte} (h : ∀ n, (b.toNat, n) ∉ opcodeRows) : opcodeOf b = none :=
  Option.eq_none_iff_forall_ne_some.2 fun o ho => h _ (mem_opcodeRows_iff.2 ⟨o, ho, rfl⟩)

/-! ### The header checks, in their order (30_encoding.md R50) -/

section Header

variable {cfg : Config} {opc rsv n1 n0 : Byte} {rest : Bytes} {o : Opcode}

theorem decode_of_short {desc : Bytes} (h : desc.length < 4) : decode cfg desc = .error .truncated :=
  if_pos h

theorem decode_of_reserved (h : opcodeOf opc = none) : decode cfg (opc :: rsv :: n1 :: n0 :: rest) = .error .opcode := by
  simp [decode, h]

/-- Behind a known opcode stand the checks of RSV and NOPS. -/
theorem decode_of_known (h : opcodeOf opc = some o) :
    decode cfg (opc :: rsv :: n1 :: n0 :: rest) =
      if rsv ≠ 0 then .error .rsvNonzero
      else if 256 * n1.toNat + n0.toNat ≠ operandCount o then .error .nopsMismatch
      else decodeOperands cfg o rest := by
  rw [decode, if_neg (by simp only [List.length_cons]; omega), List.getD_cons_zero, h, ← toNat_u16be n1 n0 rest]
  rfl

theorem decode_of_rsv_ne_zero (h : opcodeOf opc = some o) (hrsv : rsv ≠ 0) :
    decode cfg (opc :: rsv :: n1 :: n0 :: rest) = .error .rsvNonzero := by
  rw [decode_of_known h, if_pos hrsv]

theorem decode_of_count_ne (h : opcodeOf opc = some o) (hrsv : rsv = 0) (hn : 256 * n1.toNat + n0.toNat ≠ operandCount o) :
    decode cfg (opc :: rsv :: n1 :: n0 :: rest) = .error .nopsMismatch := by
  rw [decode_of_known h, if_neg (not_not.2 hrsv), if_pos hn]

theorem decode_of_header (h : opcodeOf opc = some o) (hrsv : rsv = 0) (hn : 256 * n1.toNat + n0.toNat = operandCount o) :
    decode cfg (opc :: rsv :: n1 :: n0 :: rest) = decodeOperands cfg o rest := by
  rw [decode_of_known h, if_neg (not_not.2 hrsv), if_neg (not_not.2 hn)]

end Header

theorem operandCount_le_five (o : Opcode) : operandCount o ≤ 5 := by
  cases o <;> decide

/-- The descriptor behind a header that its opcode lays out goes to the operand checks. -/
theorem decode_headerBytes (cfg : Config) (o : Opcode) (rest : Bytes) :
    decode cfg (headerBytes o ++ rest) = decodeOperands cfg o rest := by
  have hcount := operandCount_le_five o
  have hbytes (v : Half) : 256 * (v.extractLsb' 8 8).toNat + (v.extractLsb' 0 8).toNat = v.toNat := by
    rw [← toNat_u16be _ _ []]
    exact congrArg BitVec.toNat (u16be_be16 v)
  refine decode_of_header (opcodeOf_opcodeByte o) rfl ?_
  rw [hbytes, BitVec.toNat_ofNat]
  omega

/-- A header that passes the checks is the one that its opcode lays out. -/
theorem headerBytes_eq {opc rsv n1 n0 : Byte} {o : Opcode} (h : opcodeOf opc = some o) (hrsv : rsv = 0)
    (hn : 256 * n1.toNat + n0.toNat = operandCount o) : headerBytes o = [opc, rsv, n1, n0] := by
  have hcount : BitVec.ofNat 16 (operandCount o) = u16be [n1, n0] := by
    rw [← hn, ← toNat_u16be n1 n0 [], BitVec.ofNat_toNat, BitVec.setWidth_eq]
  rw [headerBytes, hcount, be16_u16be, opcodeOf_eq_some_iff.1 h, hrsv]

/-- A descriptor that decodes has passed every header check. -/
theorem decode_ok {cfg : Config} {desc : Bytes} {i : Instr} (h : decode cfg desc = .ok i) :
    ∃ o rest, desc = headerBytes o ++ rest ∧ decodeOperands cfg o rest = .ok i := by
  by_cases hshort : desc.length < 4
  · cases (decode_of_short hshort).symm.trans h
  obtain ⟨opc, rsv, n1, n0, rest, rfl⟩ := exists_four_cons (not_lt.1 hshort)
  cases hopc : opcodeOf opc with
  | none => cases (decode_of_reserved hopc).symm.trans h
  | some o =>
    by_cases hrsv : rsv = 0
    · by_cases hn : 256 * n1.toNat + n0.toNat = operandCount o
      · exact ⟨o, rest, by rw [headerBytes_eq hopc hrsv hn]; rfl, (decode_of_header hopc hrsv hn).symm.trans h⟩
      · cases (decode_of_count_ne hopc hrsv hn).symm.trans h
    · cases (decode_of_rsv_ne_zero hopc hrsv).symm.trans h

/-! ### The operand checks, in their order (30_encoding.md R50) -/

section Operands

variable {cfg : Config} {o : Opcode} {rest after : Bytes} {ops : List Bytes} {i : Instr}

theorem decodeOperands_of_walk_error {e : CmdError} (h : walkOperands cfg (operandCount o) rest = .error e) :
    decodeOperands cfg o rest = .error e := by
  simp [decodeOperands, h]

theorem decodeOperands_of_trailing (h : walkOperands cfg (operandCount o) rest = .ok (ops, after)) (hafter : after ≠ []) :
    decodeOperands cfg o rest = .error .trailing := by
  simp [decodeOperands, h, hafter]

theorem decodeOperands_of_oplenFixed (h : walkOperands cfg (operandCount o) rest = .ok (ops, []))
    (hlens : fixedLensHold (operandLens o) ops = false) : decodeOperands cfg o rest = .error .oplenFixed := by
  simp [decodeOperands, h, hlens]

theorem decodeOperands_of_assemble (h : walkOperands cfg (operandCount o) rest = .ok (ops, []))
    (hlens : fixedLensHold (operandLens o) ops = true) (hi : assembleOperands o ops = some i) :
    decodeOperands cfg o rest = .ok i := by
  simp [decodeOperands, h, hlens, hi]

/-- Operands that decode have passed every operand check. -/
theorem decodeOperands_ok (h : decodeOperands cfg o rest = .ok i) :
    ∃ ops, walkOperands cfg (operandCount o) rest = .ok (ops, []) ∧ fixedLensHold (operandLens o) ops = true ∧
      assembleOperands o ops = some i := by
  cases hw : walkOperands cfg (operandCount o) rest with
  | error e => cases (decodeOperands_of_walk_error hw).symm.trans h
  | ok r =>
    obtain ⟨ops, after⟩ := r
    by_cases hafter : after = []
    · subst hafter
      cases hlens : fixedLensHold (operandLens o) ops with
      | false => cases (decodeOperands_of_oplenFixed hw hlens).symm.trans h
      | true =>
        cases hi : assembleOperands o ops with
        | none => simp [decodeOperands, hw, hlens, hi] at h
        | some j =>
          obtain rfl := Except.ok.inj ((decodeOperands_of_assemble hw hlens hi).symm.trans h)
          exact ⟨ops, rfl, hlens, hi⟩
    · cases (decodeOperands_of_trailing hw hafter).symm.trans h

end Operands

/-! ### The operands of a command (30_encoding.md R51, R54) -/

theorem operandsFit (i : Instr) : Laws.OperandsFit.Statement i := by
  cases i with
  | nop => exact Laws.OperandsFit.nop
  | csrRead => exact Laws.OperandsFit.csrRead _
  | csrWrite => exact Laws.OperandsFit.csrWrite _ _
  | softReset => exact Laws.OperandsFit.softReset
  | crc16 => exact Laws.OperandsFit.crc16 _ _ _
  | crcInit => exact Laws.OperandsFit.crcInit
  | crcUpdate => exact Laws.OperandsFit.crcUpdate _
  | frameEncode => exact Laws.OperandsFit.frameEncode _ _ _ _ _
  | decFeed => exact Laws.OperandsFit.decFeed _
  | decEos => exact Laws.OperandsFit.decEos
  | decReset => exact Laws.OperandsFit.decReset
  | aesCbcEnc => exact Laws.OperandsFit.aesCbcEnc _ _ _
  | aesCbcDec => exact Laws.OperandsFit.aesCbcDec _ _ _
  | hmacSha256 => exact Laws.OperandsFit.hmacSha256 _ _
  | hkdfExtract => exact Laws.OperandsFit.hkdfExtract _ _
  | hkdfExpand => exact Laws.OperandsFit.hkdfExpand _ _ _
  | ecdhX => exact Laws.OperandsFit.ecdhX _ _
  | chacha20 => exact Laws.OperandsFit.chacha20 _ _ _ _
  | nip44Convkey => exact Laws.OperandsFit.nip44Convkey _ _
  | nip44Encrypt => exact Laws.OperandsFit.nip44Encrypt _ _ _
  | nip44Decrypt => exact Laws.OperandsFit.nip44Decrypt _ _

/-- Assembly drops no byte of its operands: an integer operand of its fixed length is the integer's big-endian bytes. -/
theorem assembleOperands_eq_some {o : Opcode} {ops : List Bytes} {i : Instr} (h : assembleOperands o ops = some i)
    (hlens : fixedLensHold (operandLens o) ops = true) : i.opcode = o ∧ i.operands = ops := by
  unfold assembleOperands at h
  split at h <;> cases h
  -- The rows without an integer operand pass their operands unchanged.
  any_goals exact ⟨rfl, rfl⟩
  all_goals
    simp only [operandLens, fixedLensHold, Bool.and_eq_true, beq_iff_eq] at hlens
    simp [Instr.opcode, Instr.operands, be16_u16be_of_length, be32_u32be_of_length, hlens]

/-- Operands with their fixed lengths, each within the limits, make a well-formed command. -/
theorem wellFormed_of_operands {cfg : Config} {i : Instr}
    (hlens : fixedLensHold (operandLens i.opcode) i.operands = true)
    (hfits : ∀ op ∈ i.operands, op.length ≤ cfg.maxOperandLen ∧ op.length < 2 ^ 32) : i.wellFormed cfg = true := by
  have hvar {op : Bytes} (hop : op ∈ i.operands) : fitsVar cfg op = true := by simpa [fitsVar] using hfits op hop
  cases i with
  | nop | csrRead | csrWrite | softReset | crcInit | decEos | decReset => rfl
  | _ => simp_all [Instr.wellFormed, Instr.opcode, Instr.operands, operandLens, fixedLensHold]

/-- Settles O1: the walk reads back the operands as the encoder laid them out, and they pass each check. -/
theorem decodeOfEncode : Obligations.DecodeOfEncode := by
  intro cfg i hvalid hwf
  obtain ⟨hassemble, hcount, hlens, hfits⟩ := operandsFit i cfg hvalid hwf
  have hwalk := walkOperands_encoded cfg i.operands [] hfits
  rw [List.append_nil, hcount] at hwalk
  rw [encode, decode_headerBytes]
  exact decodeOperands_of_assemble hwalk hlens hassemble

/-- Settles O2: what passes the checks is the header, then the operands length-prefixed. -/
theorem encodeOfDecode : Obligations.EncodeOfDecode := by
  intro cfg desc i h
  obtain ⟨o, rest, rfl, hrest⟩ := decode_ok h
  obtain ⟨ops, hwalk, hlens, hassemble⟩ := decodeOperands_ok hrest
  obtain ⟨-, rfl, hfits⟩ := walkOperands_ok hwalk
  obtain ⟨rfl, rfl⟩ := assembleOperands_eq_some hassemble hlens
  exact ⟨wellFormed_of_operands hlens hfits, by rw [encode, List.append_nil]⟩

/-- Settles O4: the 21 rows are those of the opcode map. -/
theorem headerChecksInOrder : Obligations.HeaderChecksInOrder := by
  refine ⟨fun cfg desc => decode_of_short, fun cfg opc rsv n1 n0 rest => ⟨fun hnone => ?reserved, fun n hn => ?known⟩⟩
  case reserved => exact decode_of_reserved (opcodeOf_eq_none_of_rows hnone)
  case known =>
    obtain ⟨o, hopc, rfl⟩ := mem_opcodeRows_iff.1 hn
    exact ⟨decode_of_rsv_ne_zero hopc, decode_of_count_ne hopc⟩

/-! ### One operand: the length field against its limit, the bytes there, and the bytes after -/

section OneOperand

variable (cfg : Config) (n : Nat) (len : Word) (body : Bytes)

theorem walkOperands_of_short {rest : Bytes} (h : rest.length < 4) :
    walkOperands cfg (n + 1) rest = .error .truncated :=
  if_pos h

theorem walkOperands_of_above_max (h : cfg.maxOperandLen < len.toNat) :
    walkOperands cfg (n + 1) (be32 len ++ body) = .error .oplenMax := by
  rw [walkOperands, if_neg (by simp), u32be_be32_append, if_pos h]

theorem walkOperands_of_missing (hmax : len.toNat ≤ cfg.maxOperandLen) (h : body.length < len.toNat) :
    walkOperands cfg (n + 1) (be32 len ++ body) = .error .truncated := by
  rw [walkOperands, if_neg (by simp), u32be_be32_append, if_neg (not_lt.2 hmax), List.drop_left' (length_be32 len), if_pos h]

theorem walkOperands_one (hmax : len.toNat ≤ cfg.maxOperandLen) (h : len.toNat ≤ body.length) :
    walkOperands cfg 1 (be32 len ++ body) = .ok ([body.take len.toNat], body.drop len.toNat) := by
  rw [walkOperands, if_neg (by simp), u32be_be32_append, if_neg (not_lt.2 hmax), List.drop_left' (length_be32 len),
    if_neg (not_lt.2 h)]
  rfl

end OneOperand

theorem decode_crcUpdate_header (cfg : Config) (rest : Bytes) :
    decode cfg ([0x12, 0x00, 0x00, 0x01] ++ rest) = decodeOperands cfg .crcUpdate rest :=
  decode_headerBytes cfg .crcUpdate rest

theorem decode_csrRead_header (cfg : Config) (rest : Bytes) :
    decode cfg ([0x01, 0x00, 0x00, 0x01] ++ rest) = decodeOperands cfg .csrRead rest :=
  decode_headerBytes cfg .csrRead rest

/-- CRC_UPDATE's one operand is variable: it is bounded by MAX_OPERAND_LEN and by the bytes that are there. -/
theorem decodeOperands_crcUpdate (cfg : Config) (len : Word) (body : Bytes) :
    decodeOperands cfg .crcUpdate (be32 len ++ body) =
      if cfg.maxOperandLen < len.toNat then .error .oplenMax
      else if body.length < len.toNat then .error .truncated
      else if len.toNat < body.length then .error .trailing
      else .ok (.crcUpdate body) := by
  split_ifs with hmax hmissing hmore
  · exact decodeOperands_of_walk_error (walkOperands_of_above_max cfg 0 len body hmax)
  · exact decodeOperands_of_walk_error (walkOperands_of_missing cfg 0 len body (not_lt.1 hmax) hmissing)
  · exact decodeOperands_of_trailing (walkOperands_one cfg len body (not_lt.1 hmax) hmore.le) (by simpa using hmore)
  · have hwalk := walkOperands_one cfg len body (not_lt.1 hmax) (not_lt.1 hmissing)
    rw [List.take_of_length_le (not_lt.1 hmore), List.drop_eq_nil_of_le (not_lt.1 hmore)] at hwalk
    exact decodeOperands_of_assemble hwalk rfl rfl

/-- An address operand within the limits, and what follows it, as the walk reads them. -/
theorem walkOperands_address {cfg : Config} {addr : Bytes} (h32 : addr.length < 2 ^ 32)
    (hmax : addr.length ≤ cfg.maxOperandLen) (after : Bytes) :
    walkOperands cfg 1 (be32 (BitVec.ofNat 32 addr.length) ++ (addr ++ after)) = .ok ([addr], after) := by
  have hlen := toNat_ofNat_length h32
  rw [walkOperands_one cfg _ _ (by omega) (by simp [hlen]), hlen, List.take_left, List.drop_left]

/-- Settles O5: `decodeOperands_crcUpdate`, and CSR_READ's fixed length, which is checked after the walk. -/
theorem operandChecksInOrder : Obligations.OperandChecksInOrder := by
  refine ⟨fun cfg short h => ?short, fun cfg len body => ?crcUpdate, fun cfg addr h32 =>
    ⟨fun hmax rest => ?above, fun hmax b rest => ?trailing, fun hmax hne => ?fixed⟩⟩
  case short =>
    rw [decode_crcUpdate_header]
    exact decodeOperands_of_walk_error (walkOperands_of_short cfg 0 h)
  case crcUpdate => rw [List.append_assoc, decode_crcUpdate_header, decodeOperands_crcUpdate]
  case above =>
    rw [List.append_assoc, List.append_assoc, decode_csrRead_header]
    exact decodeOperands_of_walk_error
      (walkOperands_of_above_max cfg 0 _ _ (by rwa [toNat_ofNat_length h32]))
  case trailing =>
    rw [List.append_assoc, List.append_assoc, decode_csrRead_header]
    exact decodeOperands_of_trailing (walkOperands_address h32 hmax _) (List.cons_ne_nil b rest)
  case fixed =>
    have hwalk := walkOperands_address h32 hmax []
    rw [List.append_nil] at hwalk
    rw [List.append_assoc, decode_csrRead_header]
    exact decodeOperands_of_oplenFixed hwalk (by simpa [operandLens, fixedLensHold] using hne)

/-- Settles O3: each descriptor is what its command encodes to, and decoding undoes encoding. -/
theorem sampleDescriptorsDecode : Obligations.SampleDescriptorsDecode := by
  have hround {i : Instr} (h : i.wellFormed Config.thisHardware = true) :
      decode Config.thisHardware (encode i) = .ok i := decodeOfEncode _ i (by decide) h
  exact ⟨hround (i := .nop) rfl, hround (i := .csrRead 0x0002) rfl, hround (i := .crcUpdate [0x31, 0x32]) rfl,
    hround (i := .decEos) rfl, hround (i := .hkdfExpand [0xAA] [] 0x0102) rfl⟩

/-! ### Responses (30_encoding.md R52, R57) -/

/-- The walk over outputs as a response lays them out. -/
theorem walkOutputs_encoded (outs : List Bytes) (after : Bytes) (h : ∀ o ∈ outs, o.length < 2 ^ 32) :
    walkOutputs outs.length (outs.flatMap lengthPrefixed ++ after) = some (outs, after) := by
  induction outs with
  | nil => rfl
  | cons out outs ih =>
    obtain ⟨hout, houts⟩ := List.forall_mem_cons.1 h
    have hlen (tail : Bytes) : (u32be (lengthPrefixed out ++ tail)).toNat = out.length := by
      rw [lengthPrefixed, List.append_assoc, u32be_be32_append, toNat_length32 hout]
    have hdrop (tail : Bytes) : (lengthPrefixed out ++ tail).drop 4 = out ++ tail := by
      rw [lengthPrefixed, List.append_assoc, List.drop_left' (length_be32 _)]
    rw [List.length_cons, List.flatMap_cons, List.append_assoc, walkOutputs, hlen, hdrop,
      if_neg (by simp only [List.length_append, length_lengthPrefixed]; omega),
      List.drop_left, List.take_left, ih houts]
    rfl

/-- Settles O6: the count field holds the number of outputs, and their walk ends where the response ends. -/
theorem responseWalksBack : Obligations.ResponseWalksBack := by
  intro st sub outs hcount hlens
  have hnout (tail : Bytes) : (u16be (be16 (count16 outs.length) ++ tail)).toNat = outs.length := by
    rw [u16be_be16_append, toNat_count16 hcount]
  have hwalk := walkOutputs_encoded outs [] hlens
  rw [List.append_nil] at hwalk
  show parseResponse (st :: sub :: (be16 (count16 outs.length) ++ outs.flatMap lengthPrefixed)) = _
  simp [parseResponse, hnout, List.drop_left' (length_be16 _), hwalk]

/-! ### The command cycle on a waiting descriptor (30_encoding.md R65) -/

theorem step_of_pending {s : State} {desc : Bytes} {ds : List Bytes} (hp : s.pending = desc :: ds) :
    step s = runDescriptor desc (s.withPending ds) := by
  rw [step, commandCycle, takeCommand_eq_some.2 ⟨ds, hp, rfl⟩]

/-- Settles O7. -/
theorem stepRunsDecoded : Obligations.StepRunsDecoded := by
  intro s desc ds i hp hdecode
  rw [step_of_pending hp, runDescriptor, State.withPending_cfg, hdecode]
  rfl

/-- Settles O8. -/
theorem stepReportsDescriptorError : Obligations.StepReportsDescriptorError := by
  intro s desc ds e hp hdecode
  rw [step_of_pending hp, runDescriptor, State.withPending_cfg, hdecode, ← raise_eq_afterError]
  rfl

end Sys2Proof.Machine
end

section
/-! The request frame of FRAME_ENCODE, field by field (30_encoding.md R58), and NIP44_CONVKEY (46_nip44.md R135, R136). -/

namespace Sys2Proof.Machine

/-! ### The request frame -/

/-- What follows a slice does not change it. -/
theorem slice_append_left {front post : Bytes} {i j : Nat} (hj : j ≤ front.length) :
    slice (front ++ post) i j = slice front i j := by
  rcases le_total i j with hij | hij
  · rw [slice, slice, List.drop_append_of_le_length (by omega), List.take_append_of_le_length (by rw [List.length_drop]; omega)]
  · rw [slice, slice, Nat.sub_eq_zero_of_le hij, List.take_zero, List.take_zero]

/-- The last field is the slice from the end of what stands before it. -/
theorem slice_last {front field : Bytes} {i j : Nat} (hi : front.length = i) (hj : i + field.length = j) :
    slice (front ++ field) i j = field := by
  rw [slice, List.drop_left' hi, List.take_of_length_le (by omega)]

theorem slice_all {b : Bytes} {j : Nat} (hj : b.length = j) : slice b 0 j = b :=
  slice_last (front := []) rfl (by omega)

section RequestFrame

variable {mt : Half} {cid pk iv p : Bytes}

theorem length_requestBody (hcid : cid.length = 16) (hpk : pk.length = 32) (hiv : iv.length = 16) :
    (requestBody mt cid pk iv p).length = 70 + p.length := by
  simp [requestBody, hcid, hpk, hiv]
  omega

/-- The fields of a request frame before its checksum (30_encoding.md R58). -/
theorem slice_requestBody (hcid : cid.length = 16) (hpk : pk.length = 32) (hiv : iv.length = 16) :
    slice (requestBody mt cid pk iv p) 0 2 = be16 mt ∧ slice (requestBody mt cid pk iv p) 2 18 = cid ∧
      slice (requestBody mt cid pk iv p) 18 50 = pk ∧ slice (requestBody mt cid pk iv p) 50 66 = iv ∧
      slice (requestBody mt cid pk iv p) 66 70 = be32 (length32 p.length) ∧
      slice (requestBody mt cid pk iv p) 70 (70 + p.length) = p := by
  have hmt : (be16 mt).length = 2 := length_be16 mt
  have hlen : (be32 (length32 p.length)).length = 4 := length_be32 _
  simp only [requestBody, slice_append_left, slice_last, slice_all, List.length_append, hmt, hcid, hpk, hiv, hlen,
    Nat.reduceAdd, Nat.reduceLeDiff, le_refl, and_self]

end RequestFrame

theorem length_withChecksum (body : Bytes) : (withChecksum body).length = body.length + 2 := by
  simp [withChecksum]

theorem slice_withChecksum {body : Bytes} {i j : Nat} (hj : j ≤ body.length) :
    slice (withChecksum body) i j = slice body i j :=
  slice_append_left hj

/-- The last two bytes of a frame are the CRC over the frame's bytes before them. -/
theorem slice_withChecksum_crc (body : Bytes) :
    slice (withChecksum body) body.length (body.length + 2) = be16 (crc16 (withChecksum body) 0 body.length) := by
  rw [crc16, slice_withChecksum le_rfl, ← crc16]
  exact slice_last rfl rfl

/-- Settles O28: the checksum moves no field, and it is the CRC over all of them. -/
theorem frameEncodeLayout : Obligations.FrameEncodeLayout := by
  intro s mt cid pk iv p hcid hpk hiv hp
  have hbody : (requestBody mt cid pk iv p).length = 70 + p.length := length_requestBody hcid hpk hiv
  have hframe : (withChecksum (requestBody mt cid pk iv p)).length = 72 + p.length := by
    rw [length_withChecksum, hbody]
    omega
  have hfield {i j : Nat} {b : Bytes} (hj : j ≤ 70 + p.length) (h : slice (requestBody mt cid pk iv p) i j = b) :
      slice (withChecksum (requestBody mt cid pk iv p)) i j = b :=
    (slice_withChecksum (hbody ▸ hj)).trans h
  have hcrc := slice_withChecksum_crc (requestBody mt cid pk iv p)
  rw [hbody, show 70 + p.length + 2 = 72 + p.length by omega] at hcrc
  obtain ⟨fieldMt, fieldCid, fieldPk, fieldIv, fieldLen, fieldPayload⟩ := slice_requestBody (mt := mt) (p := p) hcid hpk hiv
  rw [length32, if_pos hp] at fieldLen
  exact ⟨_, rfl, hframe, hfield (by omega) fieldMt, hfield (by omega) fieldCid, hfield (by omega) fieldPk,
    hfield (by omega) fieldIv, hfield (by omega) fieldLen, hfield le_rfl fieldPayload, hcrc⟩

/-! ### NIP44_CONVKEY, through ECDH_X -/

theorem ecdh_of_liftX_ok {d x : Bytes} {pt : Point} (hmin : 1 ≤ intBe d) (hmax : intBe d < curveN)
    (h : liftX (intBe x) = .ok pt) : ecdh d x = .ok (pointX (scalarMul (intBe d) pt)) := by
  rw [ecdh, if_neg (by omega), h]

theorem ecdh_of_illegal_scalar {d : Bytes} (x : Bytes) (h : intBe d = 0 ∨ curveN ≤ intBe d) :
    ecdh d x = .error .scalar :=
  if_pos h

theorem ecdh_of_liftX_error {d x : Bytes} {e : CmdError} (hmin : 1 ≤ intBe d) (hmax : intBe d < curveN)
    (h : liftX (intBe x) = .error e) : ecdh d x = .error e := by
  rw [ecdh, if_neg (by omega), h]

/-- An x that does not lift has one error (44_ecdh_secp256k1.md R118). -/
theorem liftX_error {x : Nat} {e : CmdError} (h : liftX x = .error e) : e = .point := by
  dsimp only [liftX] at h
  split_ifs at h <;> exact (Except.error.inj h).symm

theorem exec_nip44Convkey_of_ecdh_ok {d x shared : Bytes} (s : State) (h : ecdh d x = .ok shared) :
    exec (.nip44Convkey d x) s = .next (afterOk s [hmac nip44Salt shared]) := by
  show execNip44Convkey d x s = _
  rw [execNip44Convkey, conversationKey, h]
  rfl

theorem exec_nip44Convkey_of_ecdh_error {d x : Bytes} {e : CmdError} (s : State) (h : ecdh d x = .error e) :
    exec (.nip44Convkey d x) s = .next (afterError s e.status e.sub) := by
  show execNip44Convkey d x s = _
  rw [execNip44Convkey, conversationKey, h]
  rfl

/-- Settles O57. -/
theorem convkeyIsEcdhThenExtract : Obligations.ConvkeyIsEcdhThenExtract := by
  refine fun s d x => ⟨fun pt hmin hmax h => ?ok, fun h => ?scalar, fun e hmin hmax h => ?point⟩
  case ok => exact exec_nip44Convkey_of_ecdh_ok s (ecdh_of_liftX_ok hmin hmax h)
  case scalar => exact exec_nip44Convkey_of_ecdh_error s (ecdh_of_illegal_scalar x h)
  case point =>
    obtain rfl := liftX_error h
    exact exec_nip44Convkey_of_ecdh_error s (ecdh_of_liftX_error hmin hmax h)

end Sys2Proof.Machine
end

section
/-! U1, the CRC-16 generator (40_crc16.md): its four commands, and that the CRC tells apart two byte strings that differ in one
byte (R71). -/

namespace Sys2Proof.Machine

/-! ### The commands (40_crc16.md R68-R70) -/

theorem exec_crc16_of_range {data : Bytes} {start stop : Word} (s : State) (hle : start.toNat ≤ stop.toNat)
    (hlen : stop.toNat ≤ data.length) :
    exec (.crc16 data start stop) s = .next (afterOk s [be16 (crc16 data start.toNat stop.toNat)]) := by
  show execCrc16 data start stop s = _
  rw [execCrc16, if_pos ⟨hle, hlen⟩]
  rfl

theorem exec_crc16_of_not_range {data : Bytes} {start stop : Word} (s : State)
    (h : stop.toNat < start.toNat ∨ data.length < stop.toNat) :
    exec (.crc16 data start stop) s = .next (raise s .range) := by
  show execCrc16 data start stop s = _
  rw [execCrc16, if_neg (by omega)]
  rfl

theorem exec_crcInit (s : State) : exec .crcInit s = .next (afterOk (s.withCrc 0xFFFF) []) := rfl

theorem exec_crcUpdate (data : Bytes) (s : State) :
    exec (.crcUpdate data) s = .next (afterOk (s.withCrc (crcFold s.crc data)) [be16 (crcFold s.crc data)]) := rfl

/-- The half-open slice, with its end taken first. -/
theorem slice_eq_drop_take (b : Bytes) (i j : Nat) : slice b i j = (b.take j).drop i :=
  List.drop_take.symm

/-- Settles O23. -/
theorem crc16Result : Obligations.Crc16Result := by
  refine fun s data start stop => ⟨fun hle hlen => ?legal, exec_crc16_of_not_range s⟩
  case legal => rw [exec_crc16_of_range s hle hlen, crc16, slice_eq_drop_take, crcFold]

/-- Settles O24: CSR_READ is that of the register CRC, from the state that CRC_INIT left. -/
theorem crcInitResult : Obligations.CrcInitResult := by
  refine ⟨rfl, exec_crcInit, fun s t u ht hu => ?_⟩
  obtain rfl := Host.Outcome.next.inj ht
  obtain rfl := Host.Outcome.next.inj hu
  refine ⟨rfl, ?_⟩
  rw [exec_csrRead_of_ok (csrValue_crc _), complete_crc, State.withCrc_crc, be32_setWidth]
  rfl

/-- Settles O25. -/
theorem crcUpdateResult : Obligations.CrcUpdateResult := fun s data => exec_crcUpdate data s

theorem crcFold_append (c : Half) (a b : Bytes) : crcFold c (a ++ b) = crcFold (crcFold c a) b :=
  List.foldl_append

theorem crc16_all (b : Bytes) : crc16 b 0 b.length = crcFold 0xFFFF b := by
  rw [crc16, slice_all rfl]

/-- Settles O26: the fold over the joint bytes is the fold over the second from where the first ended. -/
theorem crcSplitIndependent : Obligations.CrcSplitIndependent := by
  intro s a b hlen
  have hstop : (BitVec.ofNat 32 (a ++ b).length).toNat = (a ++ b).length := toNat_ofNat_length hlen
  refine ⟨_, _, _, _, exec_crcInit s, exec_crcUpdate a _, exec_crcUpdate b _,
    exec_crc16_of_range _ (Nat.zero_le _) hstop.le, ?_⟩
  rw [hstop, show (0 : Word).toNat = 0 from rfl, crc16_all, crcFold_append]
  rfl

/-! ### One changed byte changes the CRC (40_crc16.md R71) -/

/-- The polynomial has a constant term: the bit that a shift pushes out can be read back from bit 0. -/
theorem getLsbD_crcShift_zero (c : Half) : (crcShift c).getLsbD 0 = c.getLsbD 15 := by
  unfold crcShift
  split
  · next htop => simp [htop]
  · next htop => simpa using htop

/-- A left shift by one loses the top bit alone. -/
theorem eq_of_shiftLeft_one_eq {a b : Half} (htop : a.getLsbD 15 = b.getLsbD 15) (h : a <<< 1 = b <<< 1) : a = b := by
  apply BitVec.eq_of_getLsbD_eq
  intro i hi
  rcases Nat.lt_succ_iff_lt_or_eq.1 hi with hlow | rfl
  · simpa [hi, show i + 1 < 16 by omega] using congrArg (·.getLsbD (i + 1)) h
  · exact htop

theorem crcShift_injective : Function.Injective crcShift := by
  intro a b h
  have htop : a.getLsbD 15 = b.getLsbD 15 := by
    rw [← getLsbD_crcShift_zero, ← getLsbD_crcShift_zero, h]
  refine eq_of_shiftLeft_one_eq htop ?_
  rw [crcShift, crcShift, htop] at h
  split at h
  · exact (BitVec.xor_left_inj _).1 h
  · exact h

theorem crcShifts_injective (n : Nat) : Function.Injective (crcShifts n) := by
  induction n with
  | zero => exact fun _ _ h => h
  | succ n ih => exact ih.comp crcShift_injective

/-- For each byte, `crc_step` is injective in the register. -/
theorem crcStep_injective_register (b : Byte) : Function.Injective (crcStep · b) :=
  fun _ _ h => (BitVec.xor_left_inj _).1 (crcShifts_injective 8 h)

/-- The upper half of the register takes in every bit of a byte. -/
theorem byteInUpperHalf_injective : Function.Injective fun b : Byte => b.setWidth 16 <<< 8 := by
  intro a b h
  apply BitVec.eq_of_getLsbD_eq
  intro i hi
  simpa [hi, show i < 16 by omega, show i + 8 < 16 by omega] using congrArg (·.getLsbD (i + 8)) h

/-- From each register value, `crc_step` is injective in the byte. -/
theorem crcStep_injective_byte (c : Half) : Function.Injective (crcStep c) :=
  fun _ _ h => byteInUpperHalf_injective ((BitVec.xor_right_inj _).1 (crcShifts_injective 8 h))

theorem crcFold_injective_register (data : Bytes) : Function.Injective (crcFold · data) := by
  induction data with
  | nil => exact fun _ _ h => h
  | cons b data ih => exact ih.comp (crcStep_injective_register b)

/-- A byte string keeps its CRC under a change of one byte only where the byte stays as it was. -/
theorem eq_getElem_of_crcFold_set_eq {c : Half} {data : Bytes} {k : Nat} {b : Byte} (hk : k < data.length)
    (h : crcFold c (data.set k b) = crcFold c data) : b = data[k] := by
  induction data generalizing c k with
  | nil => simp at hk
  | cons x data ih =>
    cases k with
    | zero => exact crcStep_injective_byte c (crcFold_injective_register data h)
    | succ k => exact ih (Nat.lt_of_succ_lt_succ hk) h

theorem slice_set {data : Bytes} {start i : Nat} (hstart : start ≤ i) (stop : Nat) (b : Byte) :
    slice (data.set i b) start stop = (slice data start stop).set (i - start) b := by
  rw [slice, List.drop_set, if_neg (not_lt.2 hstart), List.take_set, ← slice]

theorem getElem_slice {data : Bytes} {start stop k : Nat} (hk : k < (slice data start stop).length) :
    (slice data start stop)[k] = data.getD (start + k) 0 := by
  rw [length_slice] at hk
  simp [slice, show start + k < data.length by omega]

/-- The CRC of a range that holds a byte changes with the byte. -/
theorem crc16_set_ne {data : Bytes} {start stop i : Nat} {b : Byte} (hstart : start ≤ i) (hi : i < stop)
    (hstop : stop ≤ data.length) (hb : b ≠ data.getD i 0) :
    crc16 (data.set i b) start stop ≠ crc16 data start stop := by
  intro h
  have hk : i - start < (slice data start stop).length := by rw [length_slice]; omega
  rw [crc16, crc16, slice_set hstart] at h
  have hsame : b = data.getD (start + (i - start)) 0 := (eq_getElem_of_crcFold_set_eq hk h).trans (getElem_slice hk)
  rw [Nat.add_sub_cancel' hstart] at hsame
  exact hb hsame

/-- A flipped bit changes its byte. -/
theorem xor_twoPow_ne_self (b : Byte) {j : Nat} (hj : j < 8) : b ^^^ BitVec.ofNat 8 (2 ^ j) ≠ b := by
  intro h
  have hzero : BitVec.ofNat 8 (2 ^ j) = 0 := (BitVec.xor_right_inj b).1 (h.trans BitVec.xor_zero.symm)
  have hlt : 2 ^ j < 2 ^ 8 := Nat.pow_lt_pow_right (by decide) hj
  have hnat := congrArg BitVec.toNat hzero
  rw [BitVec.toNat_ofNat, Nat.mod_eq_of_lt hlt] at hnat
  exact (Nat.two_pow_pos j).ne' hnat

/-- Settles O27. -/
theorem crcDetectsSingleBitFlip : Obligations.CrcDetectsSingleBitFlip :=
  fun _ _ _ _ _ hstart hi hstop hj => crc16_set_ne hstart hi hstop (xor_twoPow_ne_self _ hj)

end Sys2Proof.Machine
end

section
/-! U2, the streaming decoder (41_frame_codec.md R73-R85): its three commands, the independence of the chunks (R81), and what
a whole frame, a wrong checksum and a header above the cap give (R76-R82). -/

namespace Sys2Proof.Machine

/-! ### The commands, one equation per decoder state (41_frame_codec.md R74, R83, R84) -/

theorem exec_decFeed_of_open {s : State} (h : DecoderOpen s) (chunk : Bytes) :
    exec (.decFeed chunk) s = .next (complete (feedBytes s chunk).1 (feedBytes s chunk).2) := by
  show execDecFeed chunk s = _
  rcases h with h | h <;> simp [execDecFeed, h]

theorem exec_decFeed_of_closed {s : State} (h : s.dstate = .closed) (chunk : Bytes) :
    exec (.decFeed chunk) s = .next (raise s .alreadyClosed) :=
  if_pos h

theorem exec_decFeed_of_faulted {s : State} (h : s.dstate = .faulted) (chunk : Bytes) :
    exec (.decFeed chunk) s = .next (raise s .faulted) := by
  show execDecFeed chunk s = _
  simp [execDecFeed, h]

/-- Settles O29: the loop changes the decoder's three fields only. -/
theorem decFeedResult : Obligations.DecFeedResult := by
  refine fun s chunk => ⟨fun ho => ⟨_, _, _, _, Prod.ext (feedBytes_frame s chunk) rfl, ?runs⟩,
    fun ho => exec_decFeed_of_open ho [], fun hc => exec_decFeed_of_closed hc chunk,
    fun hf => exec_decFeed_of_faulted hf chunk⟩
  case runs =>
    rw [exec_decFeed_of_open ho, feedBytes_frame]
    rfl

theorem exec_decEos (s : State) : exec .decEos s = .next (raise (s.withDecoder .closed [] 0) (eosError s)) := rfl

theorem eosError_of_closed {s : State} (h : s.dstate = .closed) : eosError s = .alreadyClosed := if_pos h

theorem eosError_of_faulted {s : State} (h : s.dstate = .faulted) : eosError s = .wasFaulted := by
  simp [eosError, h]

/-- From a working state, DEC_EOS tells whether a frame was in progress. -/
theorem eosError_of_open {s : State} (h : DecoderOpen s) :
    eosError s = if s.dbuf = [] then .clean else .partialFrame := by
  cases hbuf : s.dbuf <;> rcases h with h | h <;> simp [eosError, h, hbuf]

/-- Settles O35. -/
theorem decEosResult : Obligations.DecEosResult := by
  refine ⟨rfl, fun s => ⟨fun hc => ?closed, fun hf => ?faulted, fun ho hbuf => ?partialFrame, fun ho hbuf => ?clean⟩⟩
  case closed => rw [exec_decEos, eosError_of_closed hc]; rfl
  case faulted => rw [exec_decEos, eosError_of_faulted hf]; rfl
  case partialFrame => rw [exec_decEos, eosError_of_open ho, if_neg hbuf]; rfl
  case clean => rw [exec_decEos, eosError_of_open ho, if_pos hbuf]; rfl

theorem exec_decReset (s : State) : exec .decReset s = .next (complete (resetDecoder s) []) := rfl

/-- Settles O36: the reset does not read the decoder state, so CLOSED is no exception. -/
theorem decResetResult : Obligations.DecResetResult := by
  refine ⟨rfl, exec_decReset, fun s t _ ht => ?_⟩
  obtain rfl := Host.Outcome.next.inj ((exec_decReset s).symm.trans ht)
  rfl

/-! ### The sticky states (41_frame_codec.md R80, R83) -/

/-- Only the two resets and a feed write `dstate` before a command's status, and a feed runs only where the decoder is open. -/
theorem Writes.keeps_dstate {s u : State} {i : Instr} (hw : Writes s i u) (hreset : i ≠ .decReset) (hsoft : i ≠ .softReset)
    (hsticky : ¬ DecoderOpen s) : u.dstate = s.dstate := by
  cases hw with
  | softReset => exact absurd rfl hsoft
  | decReset => exact absurd rfl hreset
  | decFeed chunk ho => exact absurd ho hsticky
  | _ => rfl

/-- In CLOSED and FAULTED, every command but the resets and DEC_EOS keeps `dstate`. -/
theorem exec_keeps_sticky {i : Instr} {s t : State} (h : exec i s = .next t) (hreset : i ≠ .decReset)
    (hsoft : i ≠ .softReset) (heos : i ≠ .decEos) (hsticky : ¬ DecoderOpen s) : t.dstate = s.dstate := by
  rcases exec_cases i s with ⟨u, outs, hw, e⟩ | ⟨err, e⟩ | ⟨hi, -⟩
  · obtain rfl := Host.Outcome.next.inj (e.symm.trans h)
    exact hw.keeps_dstate hreset hsoft hsticky
  · obtain rfl := Host.Outcome.next.inj (e.symm.trans h)
    rfl
  · exact absurd hi heos

theorem dstate_of_exec_decEos {s t : State} (h : exec .decEos s = .next t) : t.dstate = .closed := by
  obtain rfl := Host.Outcome.next.inj ((exec_decEos s).symm.trans h)
  rfl

/-- Settles O37. -/
theorem stickyDecoderStates : Obligations.StickyDecoderStates := by
  intro i s t h hreset hsoft
  have not_open {d : DState} (hs : s.dstate = d) (hd : d = .closed ∨ d = .faulted) : ¬ DecoderOpen s := by
    rcases hd with rfl | rfl <;> simp [DecoderOpen, hs]
  refine ⟨fun hc => ?closed, fun hf heos => ?faulted, fun _ heos => dstate_of_exec_decEos (heos ▸ h)⟩
  case closed =>
    by_cases heos : i = .decEos
    · exact dstate_of_exec_decEos (heos ▸ h)
    · exact (exec_keeps_sticky h hreset hsoft heos (not_open hc (.inl rfl))).trans hc
  case faulted => exact (exec_keeps_sticky h hreset hsoft heos (not_open hf (.inr rfl))).trans hf

/-! ### Any split into chunks (41_frame_codec.md R81) -/

theorem dstate_ne_faulted_of_open {s : State} (h : DecoderOpen s) : s.dstate ≠ .faulted := by
  rcases h with h | h <;> simp [h]

/-- A chunk never closes the decoder: it leaves it open or FAULTED. -/
theorem feedBytes_open {s : State} (ho : DecoderOpen s) (bs : Bytes) (hf : (feedBytes s bs).1.dstate ≠ .faulted) :
    DecoderOpen (feedBytes s bs).1 := by
  induction bs generalizing s with
  | nil => exact ho
  | cons b bs ih =>
    unfold feedBytes at hf ⊢
    split at hf
    · next hfault => exact absurd hfault hf
    · next hfault =>
      rw [if_neg hfault]
      exact ih (feedByte_open ho b hfault) hf

/-- What a DEC_FEED does to the decoder and the events that it emits, refused feeds included (41_frame_codec.md R74). -/
def feedEffect (s : State) (chunk : Bytes) : State × List Bytes :=
  if DecoderOpen s then feedBytes s chunk else (s, [])

theorem feedEffect_of_open {s : State} (h : DecoderOpen s) (chunk : Bytes) : feedEffect s chunk = feedBytes s chunk :=
  if_pos h

theorem feedEffect_of_not_open {s : State} (h : ¬ DecoderOpen s) (chunk : Bytes) : feedEffect s chunk = (s, []) :=
  if_neg h

/-- A DEC_FEED always completes: it answers with the effect's events and a status, and leaves the effect's state. -/
theorem exec_decFeed_eq_respond (chunk : Bytes) (s : State) :
    ∃ st sub outs, exec (.decFeed chunk) s = .next (respond (feedEffect s chunk).1 st sub outs) ∧
      CarriesEvents (responseBytes st sub outs) (feedEffect s chunk).2 := by
  by_cases ho : DecoderOpen s
  · rw [feedEffect_of_open ho]
    exact ⟨statusOk, 0, _, exec_decFeed_of_open ho chunk, .inl rfl⟩
  · rw [feedEffect_of_not_open ho]
    cases hs : s.dstate with
    | awaitHeader => exact absurd (.inl hs) ho
    | awaitPayload => exact absurd (.inr hs) ho
    | closed => exact ⟨_, _, [], exec_decFeed_of_closed hs chunk, .inr ⟨rfl, .inl rfl⟩⟩
    | faulted => exact ⟨_, _, [], exec_decFeed_of_faulted hs chunk, .inr ⟨rfl, .inr rfl⟩⟩

theorem feedEffect_responses (s : State) (chunk : Bytes) : (feedEffect s chunk).1.responses = s.responses := by
  unfold feedEffect
  split
  · exact feedBytes_responses s chunk
  · rfl

theorem feedEffect_respond (s : State) (st sub : Byte) (outs : List Bytes) (chunk : Bytes) :
    feedEffect (respond s st sub outs) chunk =
      (respond (feedEffect s chunk).1 st sub outs, (feedEffect s chunk).2) := by
  by_cases ho : DecoderOpen s
  · rw [feedEffect_of_open ho, feedEffect_of_open (s := respond s st sub outs) ho, feedBytes_respond]
  · rw [feedEffect_of_not_open ho, feedEffect_of_not_open (s := respond s st sub outs) ho]

theorem feedEffect_nil (s : State) : feedEffect s [] = (s, []) := ite_self _

/-- What the loop discards behind a header above the cap, a feed in FAULTED refuses: so the effect of two byte strings is
always that of the second after that of the first. -/
theorem feedEffect_append (s : State) (as bs : Bytes) :
    feedEffect s (as ++ bs) =
      ((feedEffect (feedEffect s as).1 bs).1, (feedEffect s as).2 ++ (feedEffect (feedEffect s as).1 bs).2) := by
  by_cases ho : DecoderOpen s
  · rw [feedEffect_of_open ho, feedEffect_of_open ho, feedBytes_append s as bs (dstate_ne_faulted_of_open ho)]
    split
    · next hf => rw [feedEffect_of_not_open (by simp [DecoderOpen, hf]), List.append_nil]
    · next hf => rw [feedEffect_of_open (feedBytes_open ho as hf)]
  · simp only [feedEffect_of_not_open ho, List.append_nil]

/-- A run of feeds ends, but for the status and the responses, in the effect of its joint bytes, and its responses carry that
effect's events. -/
theorem runFeeds_eq_feedEffect (s : State) (chunks : List Bytes) :
    ∃ (t : State) (rs : List Bytes) (events : List (List Bytes)),
      runFeeds s chunks = .next t ∧ t.responses = s.responses ++ rs ∧ List.Forall₂ CarriesEvents rs events ∧
      events.flatten = (feedEffect s chunks.flatten).2 ∧
      t = { (feedEffect s chunks.flatten).1 with
              lastStatus := t.lastStatus, lastSub := t.lastSub, responses := t.responses } := by
  induction chunks generalizing s with
  | nil =>
    rw [List.flatten_nil, feedEffect_nil]
    exact ⟨s, [], [], rfl, (List.append_nil _).symm, .nil, rfl, rfl⟩
  | cons c cs ih =>
    obtain ⟨st, sub, outs, hexec, hcarries⟩ := exec_decFeed_eq_respond c s
    obtain ⟨t, rs, events, hrun, hresponses, hall, hevents, ht⟩ := ih (respond (feedEffect s c).1 st sub outs)
    rw [feedEffect_respond] at hevents ht
    refine ⟨t, responseBytes st sub outs :: rs, (feedEffect s c).2 :: events, ?run, ?responses, .cons hcarries hall,
      ?events, ?state⟩
    case run => rw [runFeeds, hexec, ← hrun]
    case responses => simp [hresponses, feedEffect_responses]
    case events => rw [List.flatten_cons, List.flatten_cons, feedEffect_append, hevents]
    case state =>
      rw [List.flatten_cons, feedEffect_append]
      exact ht

/-- Settles O30: the run and the one feed have the same effect. -/
theorem chunkSplitIndependent : Obligations.ChunkSplitIndependent := by
  intro s chunks
  obtain ⟨t, rs, events, hrun, hresponses, hall, hevents, ht⟩ := runFeeds_eq_feedEffect s chunks
  obtain ⟨st, sub, outs, hexec, hcarries⟩ := exec_decFeed_eq_respond chunks.flatten s
  refine ⟨t, _, rs, responseBytes st sub outs, events, hrun, hexec, hresponses, ?_, hall, hevents ▸ hcarries, ht⟩
  rw [respond_responses, feedEffect_responses]

/-! ### The loop up to the byte that completes a header or a frame (41_frame_codec.md R75, R77) -/

/-- The loop goes on behind bytes that leave the decoder working. -/
theorem feedBytes_append_of_eq {s u : State} {as : Bytes} {events : List Bytes} (hs : s.dstate ≠ .faulted)
    (h : feedBytes s as = (u, events)) (hu : u.dstate ≠ .faulted) (bs : Bytes) :
    feedBytes s (as ++ bs) = ((feedBytes u bs).1, events ++ (feedBytes u bs).2) := by
  rw [feedBytes_append s as bs hs, h]
  exact if_neg hu

/-- The loop discards what stands behind bytes that fault the decoder (41_frame_codec.md R80). -/
theorem feedBytes_append_of_eq_faulted {s u : State} {as : Bytes} {events : List Bytes} (hs : s.dstate ≠ .faulted)
    (h : feedBytes s as = (u, events)) (hu : u.dstate = .faulted) (bs : Bytes) :
    feedBytes s (as ++ bs) = (u, events) := by
  rw [feedBytes_append s as bs hs, h]
  exact if_pos hu

theorem feedBytes_singleton (s : State) (b : Byte) : feedBytes s [b] = feedByte s b := by
  unfold feedBytes
  split
  · rfl
  · simp [feedBytes]

/-- The length at which the bytes buffered complete what the decoder waits for: a header, or the frame. -/
def awaitedLength (s : State) : Nat := if s.dstate = .awaitHeader then 72 else 74 + s.dlen.toNat

/-- A byte short of the awaited length is buffered and nothing else happens. -/
theorem feedByte_of_short {s : State} {b : Byte} (h : (s.dbuf ++ [b]).length < awaitedLength s) :
    feedByte s b = (s.withDecoder s.dstate (s.dbuf ++ [b]) s.dlen, []) := by
  unfold awaitedLength at h
  unfold feedByte
  split at h
  · next hs =>
    rw [if_pos hs]
    rcases headerByte_cases s b with ⟨-, e⟩ | ⟨heq, -⟩ | ⟨heq, -⟩
    · exact e
    · exact absurd heq h.ne
    · exact absurd heq h.ne
  · next hs =>
    rw [if_neg hs]
    rcases payloadByte_cases s b with ⟨-, e⟩ | ⟨heq, -⟩
    · exact e
    · exact absurd heq h.ne

theorem feedBytes_of_short {s : State} {bs : Bytes} (hs : s.dstate ≠ .faulted)
    (h : (s.dbuf ++ bs).length < awaitedLength s) :
    feedBytes s bs = (s.withDecoder s.dstate (s.dbuf ++ bs) s.dlen, []) := by
  induction bs generalizing s with
  | nil => rw [List.append_nil]; rfl
  | cons b bs ih =>
    rw [List.append_cons] at h ⊢
    have hbyte : feedBytes s [b] = (s.withDecoder s.dstate (s.dbuf ++ [b]) s.dlen, []) :=
      (feedBytes_singleton s b).trans (feedByte_of_short (lt_of_le_of_lt (by simp) h))
    have hrest : feedBytes (s.withDecoder s.dstate (s.dbuf ++ [b]) s.dlen) bs =
        (s.withDecoder s.dstate (s.dbuf ++ [b] ++ bs) s.dlen, []) := ih hs h
    show feedBytes s ([b] ++ bs) = _
    rw [feedBytes_append_of_eq hs hbyte hs, hrest]
    rfl

/-- Bytes that reach the awaited length with the last of them: that byte acts on all before it. -/
theorem feedBytes_concat {s : State} {bs : Bytes} {b : Byte} (hs : s.dstate ≠ .faulted)
    (h : (s.dbuf ++ (bs ++ [b])).length = awaitedLength s) :
    feedBytes s (bs ++ [b]) = feedByte (s.withDecoder s.dstate (s.dbuf ++ bs) s.dlen) b := by
  have hshort : (s.dbuf ++ bs).length < awaitedLength s := by
    rw [← h]
    simp
  rw [feedBytes_append_of_eq hs (feedBytes_of_short hs hshort) hs, feedBytes_singleton]
  rfl

/-- The 72 bytes of a header: one above the cap faults the decoder, any other starts the frame (41_frame_codec.md R76, R80). -/
theorem feedBytes_header {s : State} {header : Bytes} (hs : s.dstate = .awaitHeader) (hbuf : s.dbuf = [])
    (hlen : header.length = 72) :
    feedBytes s header =
      if s.maxpay < headerPayloadLength header then (s.withDecoder .faulted [] 0, [eventLength ++ header])
      else (s.withDecoder .awaitPayload header (headerPayloadLength header), []) := by
  rcases List.eq_nil_or_concat header with rfl | ⟨bs, b, rfl⟩
  · simp at hlen
  rw [List.concat_eq_append] at hlen ⊢
  have hfeed : feedBytes s (bs ++ [b]) = headerByte (s.withDecoder .awaitHeader bs s.dlen) b := by
    rw [feedBytes_concat (dstate_ne_faulted_of_open (.inl hs))
      (by rw [hbuf, List.nil_append, hlen, awaitedLength, if_pos hs]), hs, hbuf]
    rfl
  rw [hfeed]
  rcases headerByte_cases (s.withDecoder .awaitHeader bs s.dlen) b with ⟨hne, -⟩ | ⟨-, hcap, e⟩ | ⟨-, hcap, e⟩
  · exact absurd hlen hne
  · rw [e]; exact (if_pos hcap).symm
  · rw [e]; exact (if_neg hcap).symm

/-- The payload and the checksum behind a header complete the frame (41_frame_codec.md R77). -/
theorem feedBytes_payload {s : State} {tail : Bytes} (hs : s.dstate = .awaitPayload) (hne : tail ≠ [])
    (hlen : (s.dbuf ++ tail).length = 74 + s.dlen.toNat) :
    feedBytes s tail = (s.withDecoder .awaitHeader [] 0, [frameEvent (s.dbuf ++ tail) s.dlen.toNat]) := by
  rcases List.eq_nil_or_concat tail with rfl | ⟨bs, b, rfl⟩
  · exact absurd rfl hne
  rw [List.concat_eq_append] at hlen ⊢
  have hfeed : feedBytes s (bs ++ [b]) = payloadByte (s.withDecoder .awaitPayload (s.dbuf ++ bs) s.dlen) b := by
    rw [feedBytes_concat (dstate_ne_faulted_of_open (.inr hs))
      (by rw [hlen, awaitedLength, if_neg (by simp [hs])]), hs]
    rfl
  rw [← List.append_assoc] at hlen ⊢
  rw [hfeed]
  rcases payloadByte_cases (s.withDecoder .awaitPayload (s.dbuf ++ bs) s.dlen) b with ⟨hne', -⟩ | ⟨-, e⟩
  · exact absurd hlen hne'
  · exact e

/-- A whole frame within the cap, fed at a frame boundary, gives its one event and the boundary again. -/
theorem feedBytes_wholeFrame {s : State} {header tail : Bytes} (hs : s.dstate = .awaitHeader) (hbuf : s.dbuf = [])
    (hlen : header.length = 72) (hcap : headerPayloadLength header ≤ s.maxpay)
    (htail : tail.length = (headerPayloadLength header).toNat + 2) :
    feedBytes s (header ++ tail) =
      (s.withDecoder .awaitHeader [] 0, [frameEvent (header ++ tail) (headerPayloadLength header).toNat]) := by
  have hheader := feedBytes_header hs hbuf hlen
  rw [if_neg (BitVec.not_lt.2 hcap)] at hheader
  have hne : tail ≠ [] := List.ne_nil_of_length_pos (by omega)
  have hpayload := feedBytes_payload (s := s.withDecoder .awaitPayload header (headerPayloadLength header)) rfl hne (by
    rw [State.withDecoder_dbuf, State.withDecoder_dlen, List.length_append, hlen, htail]
    omega)
  rw [feedBytes_append_of_eq (dstate_ne_faulted_of_open (.inl hs)) hheader (by simp), hpayload]
  rfl

theorem headerPayloadLength_of_length {header : Bytes} (h : header.length = 72) :
    headerPayloadLength header = u32be (header.drop 68) := by
  rw [headerPayloadLength, slice, List.take_of_length_le (by rw [List.length_drop]; omega)]

/-- Settles O34: the header faults the decoder, and behind it the loop discards every byte. -/
theorem lengthFaultDiscardsRest : Obligations.LengthFaultDiscardsRest := by
  intro s header rest hs hbuf hlen hcap
  have hheader := feedBytes_header hs hbuf hlen
  rw [headerPayloadLength_of_length hlen, if_pos (BitVec.lt_def.2 hcap)] at hheader
  rw [exec_decFeed_of_open (.inl hs), feedBytes_append_of_eq_faulted (dstate_ne_faulted_of_open (.inl hs)) hheader rfl]
  rfl

/-! ### The response frame, field by field (30_encoding.md R59) -/

/-- The 72 bytes of a response frame before its payload. -/
def responseHeader (f : ResponseFrame) : Bytes :=
  be16 f.messageType ++ f.correlationId ++ be16 f.resultCode ++ f.sourcePubkey ++ f.iv ++
    be32 (length32 f.payload.length)

theorem responseBody_eq (f : ResponseFrame) : responseBody f = responseHeader f ++ f.payload := rfl

theorem ResponseFrame.wellFormed_iff {f : ResponseFrame} :
    f.wellFormed = true ↔ f.correlationId.length = 16 ∧ f.sourcePubkey.length = 32 ∧ f.iv.length = 16 ∧
      f.payload.length < 2 ^ 32 := by
  simp only [ResponseFrame.wellFormed, Bool.and_eq_true, beq_iff_eq, decide_eq_true_eq, and_assoc]

section ResponseFrame

variable {f : ResponseFrame} (hf : f.wellFormed = true)

include hf

theorem length_responseHeader : (responseHeader f).length = 72 := by
  obtain ⟨hcid, hpk, hiv, -⟩ := ResponseFrame.wellFormed_iff.1 hf
  simp [responseHeader, hcid, hpk, hiv]

theorem length_responseBody : (responseBody f).length = 72 + f.payload.length := by
  rw [responseBody_eq, List.length_append, length_responseHeader hf]

theorem slice_responseHeader :
    slice (responseHeader f) 0 2 = be16 f.messageType ∧ slice (responseHeader f) 2 18 = f.correlationId ∧
      slice (responseHeader f) 18 20 = be16 f.resultCode ∧ slice (responseHeader f) 20 52 = f.sourcePubkey ∧
      slice (responseHeader f) 52 68 = f.iv ∧ slice (responseHeader f) 68 72 = be32 (length32 f.payload.length) := by
  obtain ⟨hcid, hpk, hiv, -⟩ := ResponseFrame.wellFormed_iff.1 hf
  have hmt : (be16 f.messageType).length = 2 := length_be16 _
  have hrc : (be16 f.resultCode).length = 2 := length_be16 _
  have hlen : (be32 (length32 f.payload.length)).length = 4 := length_be32 _
  simp only [responseHeader, slice_append_left, slice_last, slice_all, List.length_append, hmt, hcid, hrc, hpk, hiv, hlen,
    Nat.reduceAdd, Nat.reduceLeDiff, le_refl, and_self]

/-- The length field holds the payload's length. -/
theorem toNat_headerPayloadLength_responseHeader : (headerPayloadLength (responseHeader f)).toNat = f.payload.length := by
  obtain ⟨-, -, -, -, -, fieldLen⟩ := slice_responseHeader hf
  obtain ⟨-, -, -, hpayload⟩ := ResponseFrame.wellFormed_iff.1 hf
  rw [headerPayloadLength, fieldLen, u32be_be32, toNat_length32 hpayload]

/-- The fields of a FRAME event are the frame's, whatever checksum it carries (41_frame_codec.md R85). -/
theorem parseFrameEvent_frame (ck : Bytes) : parseFrameEvent (eventFrame ++ (responseBody f ++ ck)) = f := by
  have hheader : (responseHeader f).length = 72 := length_responseHeader hf
  have hfront (i : Nat) {j : Nat} (hj : j ≤ 72) : slice (responseBody f ++ ck) i j = slice (responseHeader f) i j := by
    rw [responseBody_eq, List.append_assoc, slice_append_left (hheader ▸ hj)]
  have hlen : (headerPayloadLength (responseBody f ++ ck)).toNat = f.payload.length := by
    rw [headerPayloadLength, hfront 68 le_rfl]
    exact toNat_headerPayloadLength_responseHeader hf
  have hpayload : slice (responseBody f ++ ck) 72 (72 + f.payload.length) = f.payload := by
    rw [slice_append_left (length_responseBody hf).ge, responseBody_eq, slice_last hheader rfl]
  obtain ⟨fieldMt, fieldCid, fieldRc, fieldPk, fieldIv, -⟩ := slice_responseHeader hf
  show parseFrameEvent (0x00 :: 0x00 :: (responseBody f ++ ck)) = f
  simp [parseFrameEvent, hfront, hlen, hpayload, fieldMt, fieldCid, fieldRc, fieldPk, fieldIv]

end ResponseFrame

/-! ### What a frame gives at a frame boundary (41_frame_codec.md R77-R79, R82) -/

/-- The event of a frame, in terms of its body and of the checksum it carries. -/
theorem frameEvent_body {body : Bytes} {n : Nat} (hn : body.length = 72 + n) (rx : Half) :
    frameEvent (body ++ be16 rx) n =
      if n = 0 ∨ rx = crc16 body 0 body.length then eventFrame ++ (body ++ be16 rx)
      else eventIntegrity ++ (body ++ be16 rx) ++ be16 (crc16 body 0 body.length) := by
  have hcrc : crc16 (body ++ be16 rx) 0 (72 + n) = crc16 body 0 body.length := by
    rw [crc16, slice_append_left hn.ge, ← crc16, hn]
  have hrx : u16be (slice (body ++ be16 rx) (72 + n) (74 + n)) = rx := by
    rw [slice_last hn (by rw [length_be16]; omega), u16be_be16]
  rw [frameEvent, hcrc, hrx]
  by_cases hzero : n = 0
  · rw [if_pos hzero, if_pos (.inl hzero)]
  · simp only [hzero, false_or, if_false, eq_comm]

section FrameBoundary

variable {s : State} {f : ResponseFrame} (hs : s.dstate = .awaitHeader) (hbuf : s.dbuf = []) (hdlen : s.dlen = 0)
  (hf : f.wellFormed = true)

include hs hbuf hdlen

theorem withDecoder_boundary : s.withDecoder .awaitHeader [] 0 = s := by
  rw [← hs, ← hbuf, ← hdlen]
  rfl

include hf

/-- A response frame within the cap, with any checksum: its one event, and the decoder at the boundary again. -/
theorem exec_decFeed_responseFrame (hcap : f.payload.length ≤ s.maxpay.toNat) (rx : Half) :
    exec (.decFeed (responseBody f ++ be16 rx)) s =
      .next (afterOk s [frameEvent (responseBody f ++ be16 rx) f.payload.length]) := by
  have hlen := toNat_headerPayloadLength_responseHeader hf
  have hfeed := feedBytes_wholeFrame (tail := f.payload ++ be16 rx) hs hbuf (length_responseHeader hf)
    (BitVec.le_def.2 (hlen ▸ hcap)) (by rw [hlen, List.length_append, length_be16])
  rw [← List.append_assoc, ← responseBody_eq, hlen, withDecoder_boundary hs hbuf hdlen] at hfeed
  rw [exec_decFeed_of_open (.inl hs), hfeed]
  rfl

end FrameBoundary

/-- Settles O31: a right checksum is that of the body. -/
theorem responseFrameRoundTrip : Obligations.ResponseFrameRoundTrip := by
  intro s f hs hbuf hdlen hf hcap
  refine ⟨_, ?_, rfl, parseFrameEvent_frame hf _⟩
  rw [responseFrame, withChecksum, exec_decFeed_responseFrame hs hbuf hdlen hf hcap, frameEvent_body (length_responseBody hf),
    if_pos (.inr rfl)]
  rfl

/-- Settles O32. -/
theorem wrongChecksumReported : Obligations.WrongChecksumReported := by
  intro s f rx hs hbuf hdlen hf hcap hpayload hrx
  rw [exec_decFeed_responseFrame hs hbuf hdlen hf hcap, frameEvent_body (length_responseBody hf),
    if_neg (not_or.2 ⟨mt List.eq_nil_of_length_eq_zero hpayload, hrx⟩)]
  rfl

/-- Settles O33: a payloadLength of 0 is within every cap. -/
theorem zeroLengthFrameUnchecked : Obligations.ZeroLengthFrameUnchecked := by
  intro s f rx hs hbuf hdlen hf hpayload
  have hzero : f.payload.length = 0 := List.length_eq_zero_iff.2 hpayload
  rw [exec_decFeed_responseFrame hs hbuf hdlen hf (hzero ▸ Nat.zero_le _), frameEvent_body (length_responseBody hf),
    if_pos (.inl hzero)]
  rfl

end Sys2Proof.Machine
end

section
/-! U3, AES-128-CBC (42_aes_cbc.md R87-R102): each step of the inverse cipher undoes its step of the cipher, so decryption undoes
encryption; the loops of CBC and the padding carry that over to messages of every length. -/

namespace Sys2Proof.Machine

/-! ### The byte substitution (42_aes_cbc.md R89, R90) -/

/-- The affine map of 42_aes_cbc.md R89. -/
def sboxAffine (q : Byte) : Byte :=
  q ^^^ q.rotateLeft 1 ^^^ q.rotateLeft 2 ^^^ q.rotateLeft 3 ^^^ q.rotateLeft 4 ^^^ 0x63

/-- The inverse of the affine map (`sboxAffine_sboxUnaffine`). -/
def sboxUnaffine (v : Byte) : Byte := v.rotateLeft 1 ^^^ v.rotateLeft 3 ^^^ v.rotateLeft 6 ^^^ 0x05

theorem sboxAffine_sboxUnaffine : ∀ v : Byte, sboxAffine (sboxUnaffine v) = v := by decide +kernel

theorem invSbox_sbox : ∀ b : Byte, invSbox (sbox b) = b := by decide +kernel

/-- Each entry of the table holds the affine image of an inverse in GF(2^8). -/
theorem gmul_sboxUnaffine_sbox : ∀ b : Byte, b ≠ 0 → gmul (sboxUnaffine (sbox b)) b = 0x01 := by decide +kernel

/-- Settles O38: the byte q of an entry is what the inverse of the affine map gives for it. -/
theorem sboxIsAffineInverse : Obligations.SboxIsAffineInverse := by
  refine fun b => ⟨invSbox_sbox b, sboxUnaffine (sbox b), ?inverse, (sboxAffine_sboxUnaffine (sbox b)).symm⟩
  case inverse =>
    rcases eq_or_ne b 0 with rfl | hb
    · exact .inl ⟨rfl, by decide +kernel⟩
    · exact .inr ⟨hb, gmul_sboxUnaffine_sbox b hb⟩

/-! ### The state as 4 × 4 cells (42_aes_cbc.md R87) -/

@[simp] theorem length_cells (f : Nat → Nat → Byte) : (cells f).length = 16 := by simp [cells]

theorem cell_cells (f : Nat → Nat → Byte) {r c : Nat} (hr : r < 4) (hc : c < 4) : cell (cells f) r c = f r c := by
  have hrow : (r + 4 * c) % 4 = r := by omega
  have hcol : (r + 4 * c) / 4 = c := by omega
  simp [cell, cells, show r + 4 * c < 16 by omega, hrow, hcol]

/-- A state is known by its cells. -/
theorem cells_eq {f : Nat → Nat → Byte} {s : Bytes} (hs : s.length = 16)
    (h : ∀ r c, r < 4 → c < 4 → f r c = cell s r c) : cells f = s := by
  refine List.ext_getElem (by simp [hs]) fun k _ hk => ?_
  have hidx : k % 4 + 4 * (k / 4) = k := Nat.mod_add_div k 4
  have hcell := h (k % 4) (k / 4) (by omega) (by omega)
  simpa [cells, cell, hidx, hk] using hcell

@[simp] theorem length_subBytes (s : Bytes) : (subBytes s).length = 16 := length_cells _

@[simp] theorem length_shiftRows (s : Bytes) : (shiftRows s).length = 16 := length_cells _

@[simp] theorem length_mixColumns (s : Bytes) : (mixColumns s).length = 16 := length_cells _

@[simp] theorem length_addRoundKey (w : List Bytes) (rnd : Nat) (s : Bytes) : (addRoundKey w rnd s).length = 16 :=
  length_cells _

/-! ### Each step and its inverse (42_aes_cbc.md R91-R94) -/

section Steps

variable {s : Bytes}

theorem invSubBytes_subBytes (hs : s.length = 16) : invSubBytes (subBytes s) = s :=
  cells_eq hs fun r c hr hc => by rw [subBytes, cell_cells _ hr hc, invSbox_sbox]

theorem invShiftRows_shiftRows (hs : s.length = 16) : invShiftRows (shiftRows s) = s :=
  cells_eq hs fun r c hr hc => by
    rw [shiftRows, cell_cells _ hr (Nat.mod_lt _ (by decide)), show ((c + 4 - r) % 4 + r) % 4 = c by omega]

theorem addRoundKey_addRoundKey (w : List Bytes) (rnd : Nat) (hs : s.length = 16) :
    addRoundKey w rnd (addRoundKey w rnd s) = s :=
  cells_eq hs fun r c hr hc => by
    rw [addRoundKey, cell_cells _ hr hc, BitVec.xor_assoc, BitVec.xor_self, BitVec.xor_zero]

end Steps

/-! ### The columns (42_aes_cbc.md R93)

Each matrix is circulant: row r is row 0 turned by r places, so a new cell is one dot product of the cells of its column,
read from its own row on. -/

theorem gmulBits_xor (n : Nat) (a x y : Byte) : gmulBits n a (x ^^^ y) = gmulBits n a x ^^^ gmulBits n a y := by
  induction n generalizing a x y with
  | zero => exact BitVec.xor_zero.symm
  | succ n ih =>
    have hbit : (if (x ^^^ y).getLsbD 0 then a else 0) = (if x.getLsbD 0 then a else 0) ^^^ (if y.getLsbD 0 then a else 0) := by
      rw [BitVec.getLsbD_xor]
      cases x.getLsbD 0 <;> cases y.getLsbD 0 <;> simp
    rw [gmulBits, gmulBits, gmulBits, BitVec.ushiftRight_xor_distrib, ih, hbit]
    ac_rfl

/-- Multiplication in GF(2^8) distributes over the sum. -/
theorem gmul_xor (a x y : Byte) : gmul a (x ^^^ y) = gmul a x ^^^ gmul a y := gmulBits_xor 8 a x y

/-- A dot product in GF(2^8) with the coefficients of row 0 of MixColumns. -/
def mixDot (x0 x1 x2 x3 : Byte) : Byte := gmul 0x02 x0 ^^^ gmul 0x03 x1 ^^^ gmul 0x01 x2 ^^^ gmul 0x01 x3

/-- A dot product in GF(2^8) with the coefficients of row 0 of InvMixColumns. -/
def invMixDot (x0 x1 x2 x3 : Byte) : Byte := gmul 0x0e x0 ^^^ gmul 0x0b x1 ^^^ gmul 0x0d x2 ^^^ gmul 0x09 x3

theorem invMixDot_xor (x0 x1 x2 x3 y0 y1 y2 y3 : Byte) :
    invMixDot (x0 ^^^ y0) (x1 ^^^ y1) (x2 ^^^ y2) (x3 ^^^ y3) = invMixDot x0 x1 x2 x3 ^^^ invMixDot y0 y1 y2 y3 := by
  simp only [invMixDot, gmul_xor]
  ac_rfl

/-- Row 0 of InvMixColumns with the four columns of MixColumns: row 0 of the product of the two matrices is 1, 0, 0, 0. -/
theorem invMixDot_columns : ∀ x : Byte,
    invMixDot (gmul 0x02 x) (gmul 0x01 x) (gmul 0x01 x) (gmul 0x03 x) = x ∧
    invMixDot (gmul 0x03 x) (gmul 0x02 x) (gmul 0x01 x) (gmul 0x01 x) = 0 ∧
    invMixDot (gmul 0x01 x) (gmul 0x03 x) (gmul 0x02 x) (gmul 0x01 x) = 0 ∧
    invMixDot (gmul 0x01 x) (gmul 0x01 x) (gmul 0x03 x) (gmul 0x02 x) = 0 := by
  decide +kernel

theorem invMixDot_mixDot (x0 x1 x2 x3 : Byte) :
    invMixDot (mixDot x0 x1 x2 x3) (mixDot x1 x2 x3 x0) (mixDot x2 x3 x0 x1) (mixDot x3 x0 x1 x2) = x0 := by
  obtain ⟨h0, -, -, -⟩ := invMixDot_columns x0
  obtain ⟨-, h1, -, -⟩ := invMixDot_columns x1
  obtain ⟨-, -, h2, -⟩ := invMixDot_columns x2
  obtain ⟨-, -, -, h3⟩ := invMixDot_columns x3
  calc invMixDot (mixDot x0 x1 x2 x3) (mixDot x1 x2 x3 x0) (mixDot x2 x3 x0 x1) (mixDot x3 x0 x1 x2)
      = invMixDot (gmul 0x02 x0) (gmul 0x01 x0) (gmul 0x01 x0) (gmul 0x03 x0) ^^^
          invMixDot (gmul 0x03 x1) (gmul 0x02 x1) (gmul 0x01 x1) (gmul 0x01 x1) ^^^
          invMixDot (gmul 0x01 x2) (gmul 0x03 x2) (gmul 0x02 x2) (gmul 0x01 x2) ^^^
          invMixDot (gmul 0x01 x3) (gmul 0x01 x3) (gmul 0x03 x3) (gmul 0x02 x3) := by
        simp only [← invMixDot_xor, mixDot]
        congr 1 <;> ac_rfl
    _ = x0 ^^^ 0 ^^^ 0 ^^^ 0 := by rw [h0, h1, h2, h3]
    _ = x0 := by simp

theorem cell_mixColumns (s : Bytes) {r c : Nat} (hr : r < 4) (hc : c < 4) :
    cell (mixColumns s) r c =
      mixDot (cell s r c) (cell s ((r + 1) % 4) c) (cell s ((r + 2) % 4) c) (cell s ((r + 3) % 4) c) := by
  rw [mixColumns, cell_cells _ hr hc]
  interval_cases r <;> simp only [mixCell, mixDot, Nat.reduceAdd, Nat.reduceMod] <;> ac_rfl

theorem invMixColumns_eq_cells (s : Bytes) :
    invMixColumns s = cells fun r c =>
      invMixDot (cell s r c) (cell s ((r + 1) % 4) c) (cell s ((r + 2) % 4) c) (cell s ((r + 3) % 4) c) := by
  refine cells_eq (length_cells _) fun r c hr hc => ?_
  rw [cell_cells _ hr hc]
  interval_cases r <;> simp only [mixCell, invMixDot, Nat.reduceAdd, Nat.reduceMod] <;> ac_rfl

theorem invMixColumns_mixColumns {s : Bytes} (hs : s.length = 16) : invMixColumns (mixColumns s) = s := by
  rw [invMixColumns_eq_cells]
  refine cells_eq hs fun r c hr hc => ?_
  have hrow (k : Nat) : (r + k) % 4 < 4 := Nat.mod_lt _ (by decide)
  have hback : (r + 4) % 4 = r := by omega
  simp only [cell_mixColumns s hr hc, cell_mixColumns s (hrow _) hc, Nat.mod_add_mod, Nat.add_assoc, Nat.reduceAdd, hback,
    show (r + 5) % 4 = (r + 1) % 4 by omega, show (r + 6) % 4 = (r + 2) % 4 by omega]
  exact invMixDot_mixDot _ _ _ _

/-! ### The cipher and the inverse cipher (42_aes_cbc.md R96, R97) -/

/-- Every round of the cipher, the last one too, begins with SubBytes and ShiftRows. -/
theorem invSubBytes_invShiftRows {s : Bytes} (hs : s.length = 16) :
    invSubBytes (invShiftRows (shiftRows (subBytes s))) = s := by
  rw [invShiftRows_shiftRows (length_subBytes s), invSubBytes_subBytes hs]

/-- The two ciphers cut their rounds at different places: a round of the inverse cipher goes from behind the ShiftRows of one
round back to behind the ShiftRows of the round before it. -/
theorem aesInvRound_aesRound (w : List Bytes) (s : Bytes) (rnd : Nat) :
    aesInvRound w (shiftRows (subBytes (aesRound w s rnd))) rnd = shiftRows (subBytes s) := by
  have hlen : (aesRound w s rnd).length = 16 := length_addRoundKey _ _ _
  rw [aesInvRound, invSubBytes_invShiftRows hlen, aesRound, addRoundKey_addRoundKey w rnd (length_mixColumns _),
    invMixColumns_mixColumns (length_shiftRows _)]

/-- The rounds of the inverse cipher, run backwards, undo the rounds of the cipher. -/
theorem foldl_aesInvRound_reverse (w : List Bytes) (rounds : List Nat) (s : Bytes) :
    rounds.reverse.foldl (aesInvRound w) (shiftRows (subBytes (rounds.foldl (aesRound w) s))) = shiftRows (subBytes s) := by
  induction rounds generalizing s with
  | nil => rfl
  | cons rnd rounds ih =>
    rw [List.reverse_cons, List.foldl_append, List.foldl_cons (f := aesRound w), ih]
    exact aesInvRound_aesRound w s rnd

/-- The inverse cipher undoes the cipher, whatever the key schedule. -/
theorem aesDecrypt_aesEncrypt (key : Bytes) {block : Bytes} (hblock : block.length = 16) :
    aesDecrypt key (aesEncrypt key block) = block := by
  have hrounds := foldl_aesInvRound_reverse (keyExpansion key) [1, 2, 3, 4, 5, 6, 7, 8, 9] (addRoundKey (keyExpansion key) 0 block)
  simp only [List.reverse_cons, List.reverse_nil, List.nil_append, List.cons_append] at hrounds
  rw [aesDecrypt, aesEncrypt, addRoundKey_addRoundKey _ _ (length_shiftRows _), hrounds,
    invSubBytes_invShiftRows (length_addRoundKey _ _ _), addRoundKey_addRoundKey _ _ hblock]

/-- Settles O39. -/
theorem aesDecryptInvertsEncrypt : Obligations.AesDecryptInvertsEncrypt :=
  fun key _ _ hblock => aesDecrypt_aesEncrypt key hblock

@[simp] theorem length_aesEncrypt (key block : Bytes) : (aesEncrypt key block).length = 16 := length_addRoundKey _ _ _

/-! ### The padding (42_aes_cbc.md R98, R101) -/

theorem slice_to_end (b : Bytes) (i : Nat) : slice b i b.length = b.drop i :=
  List.take_of_length_le (by rw [List.length_drop])

theorem padLength_bounds (p : Bytes) : 1 ≤ padLength p ∧ padLength p ≤ 16 := by
  rw [padLength]
  omega

theorem length_pkcs7Pad (p : Bytes) : (pkcs7Pad p).length = 16 * (p.length / 16 + 1) := by
  rw [pkcs7Pad, List.length_append, length_rep, padLength]
  omega

section Unpad

variable {m : Bytes} {last : Byte}

theorem getD_last : (m ++ [last]).getD ((m ++ [last]).length - 1) 0 = last := by simp

theorem pkcs7Unpad_of_padValue (h : last.toNat < 1 ∨ 16 < last.toNat) : pkcs7Unpad (m ++ [last]) = .error .padValue := by
  rw [pkcs7Unpad, getD_last, if_pos h]

theorem pkcs7Unpad_of_legal (hmin : 1 ≤ last.toNat) (hmax : last.toNat ≤ 16) :
    pkcs7Unpad (m ++ [last]) =
      if (m ++ [last]).drop ((m ++ [last]).length - last.toNat) ≠ rep last last.toNat then .error .padBytes
      else .ok ((m ++ [last]).take ((m ++ [last]).length - last.toNat)) := by
  rw [pkcs7Unpad, getD_last, if_neg (by omega), slice_to_end, BitVec.ofNat_toNat, BitVec.setWidth_eq]

end Unpad

/-- The padded message ends with its pad value. -/
theorem pkcs7Pad_eq_concat (p : Bytes) : ∃ m, pkcs7Pad p = m ++ [BitVec.ofNat 8 (padLength p)] := by
  refine ⟨p ++ rep (BitVec.ofNat 8 (padLength p)) (padLength p - 1), ?_⟩
  rw [List.append_assoc, rep, ← List.replicate_succ', Nat.sub_add_cancel (padLength_bounds p).1, pkcs7Pad, rep]

theorem pkcs7Unpad_pkcs7Pad (p : Bytes) : pkcs7Unpad (pkcs7Pad p) = .ok p := by
  obtain ⟨hmin, hmax⟩ := padLength_bounds p
  obtain ⟨m, hm⟩ := pkcs7Pad_eq_concat p
  have hval : (BitVec.ofNat 8 (padLength p)).toNat = padLength p :=
    Nat.mod_eq_of_lt (by omega)
  have hcut : (pkcs7Pad p).length - padLength p = p.length := by
    rw [pkcs7Pad, List.length_append, length_rep, Nat.add_sub_cancel]
  rw [hm, pkcs7Unpad_of_legal (by omega) (by omega), ← hm, hval, hcut, pkcs7Pad, List.drop_left, List.take_left,
    if_neg (not_not.2 rfl)]

/-! ### The loops of CBC (42_aes_cbc.md R99, R101) -/

theorem xorBytes_xorBytes {a b : Bytes} (h : a.length = b.length) : xorBytes (xorBytes a b) b = a := by
  refine List.ext_getElem (by simp [length_xorBytes, h]) fun k _ _ => ?_
  simp [xorBytes]

theorem aesBlocks_cons {block : Bytes} (hblock : block.length = 16) (m : Bytes) :
    aesBlocks (block ++ m) = block :: aesBlocks m := by
  have hcount : (block ++ m).length / 16 = m.length / 16 + 1 := by
    rw [List.length_append, hblock, Nat.add_comm, Nat.add_div_right _ (by decide)]
  rw [aesBlocks, hcount, chunksOf, List.take_left' hblock, List.drop_left' hblock, aesBlocks]

theorem flatten_aesBlocks {m : Bytes} (h : m.length % 16 = 0) : (aesBlocks m).flatten = m := by
  rw [aesBlocks, chunksOf_flatten, List.take_of_length_le (by omega)]

theorem length_of_mem_chunksOf {n k : Nat} {b piece : Bytes} (hb : n * k ≤ b.length) (h : piece ∈ chunksOf n k b) :
    piece.length = n := by
  induction k generalizing b with
  | zero => cases h
  | succ k ih =>
    rw [Nat.mul_succ] at hb
    rcases List.mem_cons.1 h with rfl | h
    · rw [List.length_take]
      omega
    · exact ih (by rw [List.length_drop]; omega) h

theorem length_of_mem_aesBlocks {m block : Bytes} (h : block ∈ aesBlocks m) : block.length = 16 :=
  length_of_mem_chunksOf (Nat.mul_div_le m.length 16) h

theorem length_cbcEncBlocks (key prev : Bytes) (blocks : List Bytes) :
    (cbcEncBlocks key prev blocks).length = 16 * blocks.length := by
  induction blocks generalizing prev with
  | nil => rfl
  | cons block blocks ih =>
    rw [cbcEncBlocks, List.length_append, length_aesEncrypt, ih, List.length_cons]
    omega

theorem length_cbcEnc (key iv p : Bytes) : (cbcEnc key iv p).length = 16 * (p.length / 16 + 1) := by
  rw [cbcEnc, length_cbcEncBlocks, aesBlocks, length_chunksOf, length_pkcs7Pad, Nat.mul_div_cancel_left _ (by decide)]

/-- The loop of CBC_DEC gives back the blocks that the loop of CBC_ENC took. -/
theorem cbcDecBlocks_cbcEncBlocks (key : Bytes) {prev : Bytes} {blocks : List Bytes} (hprev : prev.length = 16)
    (hblocks : ∀ block ∈ blocks, block.length = 16) :
    cbcDecBlocks key prev (aesBlocks (cbcEncBlocks key prev blocks)) = blocks.flatten := by
  induction blocks generalizing prev with
  | nil => simp [cbcEncBlocks, aesBlocks, chunksOf, cbcDecBlocks]
  | cons block blocks ih =>
    obtain ⟨hblock, hrest⟩ := List.forall_mem_cons.1 hblocks
    have hxor : (xorBytes block prev).length = 16 := by rw [length_xorBytes, hblock, hprev, Nat.min_self]
    rw [cbcEncBlocks, aesBlocks_cons (length_aesEncrypt _ _), cbcDecBlocks, aesDecrypt_aesEncrypt key hxor,
      xorBytes_xorBytes (hblock.trans hprev.symm), ih (length_aesEncrypt _ _) hrest, List.flatten_cons]

theorem cbcDec_of_legal_length {c : Bytes} (key iv : Bytes) (hne : c.length ≠ 0) (hmod : c.length % 16 = 0) :
    cbcDec key iv c = pkcs7Unpad (cbcDecBlocks key iv (aesBlocks c)) := by
  rw [cbcDec, if_neg (by omega)]

theorem cbcDec_cbcEnc (key p : Bytes) {iv : Bytes} (hiv : iv.length = 16) : cbcDec key iv (cbcEnc key iv p) = .ok p := by
  have hlen : (cbcEnc key iv p).length = 16 * (p.length / 16 + 1) := length_cbcEnc key iv p
  have hpad : (pkcs7Pad p).length % 16 = 0 := by rw [length_pkcs7Pad, Nat.mul_mod_right]
  rw [cbcDec_of_legal_length key iv (by omega) (by omega), cbcEnc,
    cbcDecBlocks_cbcEncBlocks key hiv fun _ => length_of_mem_aesBlocks, flatten_aesBlocks hpad, pkcs7Unpad_pkcs7Pad]

/-! ### The commands (42_aes_cbc.md R100, R102) -/

/-- Settles O40. -/
theorem aesCbcEncResult : Obligations.AesCbcEncResult := fun _ key iv p _ _ => ⟨rfl, length_cbcEnc key iv p⟩

theorem exec_aesCbcDec_of_ok {key iv c p : Bytes} (s : State) (h : cbcDec key iv c = .ok p) :
    exec (.aesCbcDec key iv c) s = .next (afterOk s [p]) := by
  show execAesCbcDec key iv c s = _
  rw [execAesCbcDec, h]
  rfl

theorem exec_aesCbcDec_of_error {key iv c : Bytes} {e : CmdError} (s : State) (h : cbcDec key iv c = .error e) :
    exec (.aesCbcDec key iv c) s = .next (afterError s e.status e.sub) := by
  show execAesCbcDec key iv c s = _
  rw [execAesCbcDec, h]
  rfl

/-- Settles O41. -/
theorem aesCbcRoundTrip : Obligations.AesCbcRoundTrip :=
  fun s key _ p _ hiv => exec_aesCbcDec_of_ok s (cbcDec_cbcEnc key p hiv)

/-- Settles O42. -/
theorem aesCbcDecErrors : Obligations.AesCbcDecErrors := by
  refine fun s key iv c => ⟨fun hlen => ?length, fun m last hne hmod hm => ⟨fun hval => ?padValue, fun hmin hmax hpad => ?padBytes⟩⟩
  case length => exact exec_aesCbcDec_of_error s (if_pos hlen)
  case padValue =>
    have herr : cbcDec key iv c = .error .padValue := by
      rw [cbcDec_of_legal_length key iv hne hmod, hm, pkcs7Unpad_of_padValue hval]
    exact exec_aesCbcDec_of_error s herr
  case padBytes =>
    have herr : cbcDec key iv c = .error .padBytes := by
      rw [cbcDec_of_legal_length key iv hne hmod, hm, pkcs7Unpad_of_legal hmin hmax]
      exact if_pos hpad
    exact exec_aesCbcDec_of_error s herr

end Sys2Proof.Machine
end

section
/-! U6 and U7, SHA-256, HMAC and HKDF (43_sha256_hmac_hkdf.md): the padding, the zero fill of an HMAC key, and the blocks of
HKDF_Expand, which neither the length asked for nor a later block touches. -/

namespace Sys2Proof.Machine

/-! ### The padding of SHA-256 (R106) -/

/-- The padding's zero bytes fill a block, and are fewer than a block. -/
theorem shaPadZeros_fills (n : Nat) : (n + 1 + shaPadZeros n + 8) % 64 = 0 ∧ shaPadZeros n < 64 := by
  unfold shaPadZeros
  omega

theorem shaPadZeros_le {n k : Nat} (h : (n + 1 + k + 8) % 64 = 0) : shaPadZeros n ≤ k := by
  obtain ⟨hfills, hlt⟩ := shaPadZeros_fills n
  omega

theorem shaPad_eq (m : Bytes) :
    shaPad m = m ++ [0x80] ++ List.replicate (shaPadZeros m.length) 0x00 ++ be64 (BitVec.ofNat 64 (8 * m.length)) := by
  rw [List.append_assoc m]
  rfl

/-- Settles O43. -/
theorem shaPadding : Obligations.ShaPadding := fun m _ =>
  ⟨shaPadZeros m.length, shaPad_eq m, (shaPadZeros_fills m.length).1,
    fun _ hlt hfills => absurd (shaPadZeros_le hfills) (Nat.not_le.2 hlt)⟩

/-! ### HMAC (R108-R111) -/

@[simp] theorem length_sha256 (m : Bytes) : (sha256 m).length = 32 := rfl

@[simp] theorem length_hmac (key msg : Bytes) : (hmac key msg).length = 32 := length_sha256 _

theorem exec_hmacSha256 (key msg : Bytes) (s : State) :
    exec (.hmacSha256 key msg) s = .next (afterOk s [hmac key msg]) := rfl

/-- HKDF_EXTRACT is HMAC_SHA256 with the salt as the key (R110). -/
theorem exec_hkdfExtract (salt ikm : Bytes) (s : State) :
    exec (.hkdfExtract salt ikm) s = .next (afterOk s [hmac salt ikm]) := rfl

/-- Settles O44. -/
theorem hmacAndExtractResult : Obligations.HmacAndExtractResult := fun s key msg =>
  ⟨exec_hmacSha256 key msg s, exec_hkdfExtract key msg s, length_hmac key msg⟩

/-- A key that is not hashed is filled with zero bytes to a block. -/
theorem hmacKey_of_length_le {key : Bytes} (h : key.length ≤ 64) : hmacKey key = key ++ zeros (64 - key.length) := by
  simp only [hmacKey, if_neg (Nat.not_lt.2 h)]

theorem hmacKey_append_zeros {key : Bytes} {k : Nat} (h : key.length + k ≤ 64) :
    hmacKey (key ++ zeros k) = hmacKey key := by
  have hlen : (key ++ zeros k).length = key.length + k := by simp
  have hsum : k + (64 - (key.length + k)) = 64 - key.length := by omega
  rw [hmacKey_of_length_le (hlen ▸ h), hmacKey_of_length_le (by omega), hlen, List.append_assoc]
  simp only [zeros, List.replicate_append_replicate, hsum]

/-- HMAC reads its key through the zero-filled key alone. -/
theorem hmac_append_zeros {key : Bytes} {k : Nat} (h : key.length + k ≤ 64) (msg : Bytes) :
    hmac (key ++ zeros k) msg = hmac key msg := by
  rw [hmac, hmac, hmacKey_append_zeros h]

/-- Settles O45: the empty salt is the empty key, filled with 32 zero bytes. -/
theorem hmacZeroFill : Obligations.HmacZeroFill :=
  ⟨fun _ msg _ h => hmac_append_zeros h msg, fun ikm => (hmac_append_zeros (key := []) (k := 32) (by decide) ikm).symm⟩

/-! ### HKDF_Expand (R112, R113) -/

@[simp] theorem length_hkdfBlock (prk info t : Bytes) (i : Nat) : (hkdfBlock prk info t i).length = 32 := length_hmac _ _

@[simp] theorem length_hkdfBlocks (prk info : Bytes) (n i : Nat) (t : Bytes) :
    (hkdfBlocks prk info n i t).length = 32 * n := by
  induction n generalizing i t with
  | zero => rfl
  | succ n ih => rw [hkdfBlocks, List.length_append, ih, length_hkdfBlock, Nat.mul_succ, Nat.add_comm]

/-- The number of blocks holds the length asked for. -/
theorem le_hkdfBlockCount (len : Nat) : len ≤ 32 * ((len + 31) / 32) := by omega

theorem length_hkdfExpand (prk info : Bytes) (len : Nat) : (hkdfExpand prk info len).length = len := by
  rw [hkdfExpand, List.length_take, length_hkdfBlocks, Nat.min_eq_left (le_hkdfBlockCount len)]

/-- A block depends on the blocks before it alone: fewer blocks are the first of more. -/
theorem hkdfBlocks_prefix (prk info : Bytes) {m n : Nat} (h : m ≤ n) (i : Nat) (t : Bytes) :
    hkdfBlocks prk info m i t <+: hkdfBlocks prk info n i t := by
  induction m generalizing n i t with
  | zero => exact List.nil_prefix
  | succ m ih =>
    obtain ⟨n, rfl⟩ : ∃ n', n = n' + 1 := ⟨n - 1, by omega⟩
    exact (List.prefix_append_right_inj _).2 (ih (by omega) _ _)

/-- Settles O47: both outputs are cut from the same blocks. -/
theorem hkdfExpandPrefix : Obligations.HkdfExpandPrefix := by
  intro prk info l l' hle
  obtain ⟨more, hmore⟩ := hkdfBlocks_prefix prk info (show (l + 31) / 32 ≤ (l' + 31) / 32 by omega) 1 []
  have hlen : l ≤ (hkdfBlocks prk info ((l + 31) / 32) 1 []).length := by
    rw [length_hkdfBlocks]
    exact le_hkdfBlockCount l
  rw [hkdfExpand, hkdfExpand, List.take_take, Nat.min_eq_left hle, ← hmore, List.take_append_of_le_length hlen]

theorem exec_hkdfExpand_of_range {len : Half} (prk info : Bytes) (s : State) (hmin : 1 ≤ len.toNat)
    (hmax : len.toNat ≤ 8160) :
    exec (.hkdfExpand prk info len) s = .next (afterOk s [hkdfExpand prk info len.toNat]) := by
  show execHkdfExpand prk info len s = _
  rw [execHkdfExpand, if_neg (by omega)]
  rfl

theorem exec_hkdfExpand_of_not_range {len : Half} (prk info : Bytes) (s : State)
    (h : len.toNat < 1 ∨ 8160 < len.toNat) :
    exec (.hkdfExpand prk info len) s = .next (raise s .hkdfL) := by
  show execHkdfExpand prk info len s = _
  rw [execHkdfExpand, if_pos h]
  rfl

/-- Settles O46. -/
theorem hkdfExpandResult : Obligations.HkdfExpandResult := fun s prk info len =>
  ⟨fun hmin hmax => ⟨exec_hkdfExpand_of_range prk info s hmin hmax, length_hkdfExpand prk info len.toNat⟩,
    exec_hkdfExpand_of_not_range prk info s⟩

end Sys2Proof.Machine
end

section
/-! U5, ECDH on secp256k1 (44_ecdh_secp256k1.md): the model's field functions read in `ZMod p`, the point that lift_x gives,
and the group formulas under negation. No rule here needs p to be prime, only odd. -/

namespace Sys2Proof.Machine

/-! ### Integers and their bytes (00_scope.md R9) -/

theorem intBe_concat (b : Bytes) (v : Byte) : intBe (b ++ [v]) = intBe b * 256 + v.toNat := List.foldl_concat ..

theorem beNat_intBe (b : Bytes) : beNat b.length (intBe b) = b := by
  induction b using List.reverseRecOn with
  | nil => rfl
  | append_singleton b v ih =>
    have hv : v.toNat < 256 := v.isLt
    have hhigh : (intBe b * 256 + v.toNat) / 256 = intBe b := by omega
    have hlow : BitVec.ofNat 8 (intBe b * 256 + v.toNat) = v := by
      apply BitVec.eq_of_toNat_eq
      rw [BitVec.toNat_ofNat]
      omega
    rw [List.length_append, List.length_singleton, beNat, intBe_concat, hhigh, hlow, ih]

theorem lt_two_pow_bitlen (v : Nat) : v < 2 ^ bitlen v := by
  unfold bitlen
  split_ifs with h
  · simp [h]
  · exact Nat.lt_log2_self

/-! ### The field functions in `ZMod p` (R114, R115) -/

theorem curveP_pos : 0 < curveP := by decide

theorem curveP_odd : curveP % 2 = 1 := by decide

/-- A reduced field element is its class in `ZMod p`. -/
theorem eq_of_natCast_eq {a b : Nat} (ha : a < curveP) (hb : b < curveP) (h : (a : ZMod curveP) = b) : a = b :=
  ((ZMod.natCast_eq_natCast_iff _ _ _).1 h).eq_of_lt_of_lt ha hb

theorem natCast_curveP_sub {y : Nat} (h : y ≤ curveP) : ((curveP - y : Nat) : ZMod curveP) = -y := by
  rw [Nat.cast_sub h, CharP.cast_eq_zero, zero_sub]

theorem fieldSub_lt (a b : Nat) : fieldSub a b < curveP := Nat.mod_lt _ curveP_pos

@[simp] theorem natCast_fieldSub (a b : Nat) : (fieldSub a b : ZMod curveP) = a - b := by
  rw [fieldSub, ZMod.natCast_mod, Nat.cast_add, natCast_curveP_sub (Nat.mod_lt _ curveP_pos).le, ZMod.natCast_mod,
    sub_eq_add_neg]

@[simp] theorem natCast_fieldMul (a b : Nat) : (fieldMul a b : ZMod curveP) = a * b := by
  rw [fieldMul, ZMod.natCast_mod, Nat.cast_mul]

theorem fieldAdd_eq_zero_iff {a b : Nat} : fieldAdd a b = 0 ↔ (a + b : ZMod curveP) = 0 := by
  rw [← Nat.cast_add, ZMod.natCast_eq_zero_iff, Nat.dvd_iff_mod_eq_zero, fieldAdd]

theorem natCast_powModBits {n e : Nat} (he : e < 2 ^ n) (b acc : Nat) :
    (powModBits n b e acc : ZMod curveP) = acc * b ^ e := by
  induction n generalizing b e acc with
  | zero =>
    obtain rfl : e = 0 := by omega
    rw [powModBits, pow_zero, mul_one]
  | succ n ih =>
    have hsquare : (b : ZMod curveP) ^ e = (b * b) ^ (e / 2) * b ^ (e % 2) := by
      rw [← pow_two, ← pow_mul, ← pow_add, Nat.div_add_mod]
    rw [powModBits, ih (by omega), hsquare, ZMod.natCast_mod, Nat.cast_mul]
    rcases Nat.mod_two_eq_zero_or_one e with hbit | hbit
    · rw [if_neg (by omega), hbit, pow_zero, mul_one]
    · rw [if_pos hbit, hbit, ZMod.natCast_mod, Nat.cast_mul, pow_one]
      ring

/-- Square and multiply is the power. -/
@[simp] theorem natCast_powMod (b e : Nat) : (powMod b e : ZMod curveP) = b ^ e := by
  rw [powMod, natCast_powModBits (lt_two_pow_bitlen e), ZMod.natCast_mod, Nat.cast_one, one_mul]

theorem powModBits_lt (n b e : Nat) {acc : Nat} (h : acc < curveP) : powModBits n b e acc < curveP := by
  induction n generalizing b e acc with
  | zero => exact h
  | succ n ih =>
    apply ih
    split_ifs
    · exact Nat.mod_lt _ curveP_pos
    · exact h

theorem powMod_lt (b e : Nat) : powMod b e < curveP := powModBits_lt _ _ _ (by decide)

theorem natCast_fieldDiv (u v : Nat) : (fieldDiv u v : ZMod curveP) = u * v ^ (curveP - 2) := by
  rw [fieldDiv, natCast_fieldMul, natCast_powMod]

/-! ### lift_x (R118) -/

theorem curveP_sub_sq {y : Nat} (h : y ≤ curveP) : (curveP - y) * (curveP - y) % curveP = y * y % curveP := by
  rw [← ZMod.natCast_eq_natCast_iff', Nat.cast_mul, natCast_curveP_sub h, neg_mul_neg, Nat.cast_mul]

/-- Settles O48: of the two roots y and p − y, one is even, for p is odd. -/
theorem liftXOnCurve : Obligations.LiftXOnCurve := by
  intro x pt h
  dsimp only [liftX] at h
  have hlt := powMod_lt ((x * x * x + 7) % curveP) ((curveP + 1) / 4)
  have hodd := curveP_odd
  split_ifs at h with hx hroot heven
  · obtain rfl := Except.ok.inj h
    exact ⟨_, rfl, not_le.1 hx, hlt, heven, not_not.1 hroot⟩
  · obtain rfl := Except.ok.inj h
    exact ⟨_, rfl, not_le.1 hx, by omega, by omega, by rw [curveP_sub_sq hlt.le, not_not.1 hroot]⟩

/-! ### The group formulas under negation (R115-R117, R122) -/

@[simp] theorem pointX_pointNeg (a : Point) : pointX (pointNeg a) = pointX a := by
  cases a <;> rfl

/-- The other point over an x is the negative. -/
theorem pointNeg_affine {y : Nat} (x : Nat) (hpos : 0 < y) (hlt : y < curveP) :
    pointNeg (.affine x y) = .affine x (curveP - y) := by
  have hy : fieldSub 0 y = curveP - y :=
    eq_of_natCast_eq (fieldSub_lt _ _) (by omega)
      (by rw [natCast_fieldSub, natCast_curveP_sub hlt.le, Nat.cast_zero, zero_sub])
  rw [pointNeg, hy]

/-- The slope enters x3 squared and y3 once: negated with y1, it negates the point. -/
theorem chordPoint_neg {lam lam' : Nat} (h : (lam' : ZMod curveP) = -lam) (x1 y1 x2 : Nat) :
    chordPoint lam' x1 (fieldSub 0 y1) x2 = pointNeg (chordPoint lam x1 y1 x2) := by
  have hx : fieldSub (fieldSub (fieldMul lam' lam') x1) x2 = fieldSub (fieldSub (fieldMul lam lam) x1) x2 :=
    eq_of_natCast_eq (fieldSub_lt _ _) (fieldSub_lt _ _) (by simp [h])
  dsimp only [chordPoint, pointNeg]
  rw [hx]
  refine congrArg _ (eq_of_natCast_eq (fieldSub_lt _ _) (fieldSub_lt _ _) ?_)
  simp only [natCast_fieldSub, natCast_fieldMul, h, Nat.cast_zero]
  ring

/-- The slope of the tangent changes its sign with y, as v^(p−2) does with v: p − 2 is odd. -/
theorem tangentSlope_neg (u y : Nat) :
    (fieldDiv u (2 * fieldSub 0 y % curveP) : ZMod curveP) = -fieldDiv u (2 * y % curveP) := by
  have hodd : Odd (curveP - 2) := by decide
  rw [natCast_fieldDiv, natCast_fieldDiv, ZMod.natCast_mod, ZMod.natCast_mod, Nat.cast_mul, Nat.cast_mul, natCast_fieldSub,
    Nat.cast_zero, zero_sub, mul_neg, hodd.neg_pow, mul_neg]

theorem chordSlope_neg (y1 y2 v : Nat) :
    (fieldDiv (fieldSub (fieldSub 0 y2) (fieldSub 0 y1)) v : ZMod curveP) = -fieldDiv (fieldSub y2 y1) v := by
  have hrise : (fieldSub (fieldSub 0 y2) (fieldSub 0 y1) : ZMod curveP) = -fieldSub y2 y1 := by
    simp only [natCast_fieldSub]
    ring
  rw [natCast_fieldDiv, hrise, neg_mul, natCast_fieldDiv]

theorem pointAdd_of_opposite {y1 y2 : Nat} (x : Nat) (h : fieldAdd y1 y2 = 0) :
    pointAdd (.affine x y1) (.affine x y2) = .infinity :=
  if_pos ⟨rfl, h⟩

theorem pointAdd_of_tangent {y1 y2 : Nat} (x : Nat) (h : fieldAdd y1 y2 ≠ 0) :
    pointAdd (.affine x y1) (.affine x y2) = chordPoint (fieldDiv (3 * x * x % curveP) (2 * y1 % curveP)) x y1 x := by
  rw [pointAdd, if_neg fun hboth => h hboth.2, if_pos rfl]

theorem pointAdd_of_chord {x1 x2 : Nat} (y1 y2 : Nat) (h : x1 ≠ x2) :
    pointAdd (.affine x1 y1) (.affine x2 y2) =
      chordPoint (fieldDiv (fieldSub y2 y1) (fieldSub x2 x1)) x1 y1 x2 := by
  rw [pointAdd, if_neg fun hboth => h hboth.1, if_neg h]

theorem fieldAdd_neg_eq_zero_iff {y1 y2 : Nat} : fieldAdd (fieldSub 0 y1) (fieldSub 0 y2) = 0 ↔ fieldAdd y1 y2 = 0 := by
  rw [fieldAdd_eq_zero_iff, fieldAdd_eq_zero_iff, natCast_fieldSub, natCast_fieldSub, Nat.cast_zero, zero_sub, zero_sub,
    ← neg_add, neg_eq_zero]

/-- Negation commutes with addition, on the curve and off it. -/
theorem pointAdd_pointNeg (a b : Point) : pointAdd (pointNeg a) (pointNeg b) = pointNeg (pointAdd a b) := by
  cases b with
  | infinity => rfl
  | affine x2 y2 =>
    cases a with
    | infinity => rfl
    | affine x1 y1 =>
      by_cases hx : x1 = x2
      · obtain rfl := hx
        by_cases hy : fieldAdd y1 y2 = 0
        · rw [pointAdd_of_opposite x1 hy]
          exact pointAdd_of_opposite x1 (fieldAdd_neg_eq_zero_iff.2 hy)
        · rw [pointAdd_of_tangent x1 hy, ← chordPoint_neg (tangentSlope_neg _ y1)]
          exact pointAdd_of_tangent x1 (mt fieldAdd_neg_eq_zero_iff.1 hy)
      · rw [pointAdd_of_chord y1 y2 hx, ← chordPoint_neg (chordSlope_neg y1 y2 _)]
        exact pointAdd_of_chord _ _ hx

theorem scalarMulBits_pointNeg (n d : Nat) (r a : Point) :
    scalarMulBits n d (pointNeg r) (pointNeg a) = pointNeg (scalarMulBits n d r a) := by
  induction n generalizing d r a with
  | zero => rfl
  | succ n ih =>
    simp only [scalarMulBits, pointAdd_pointNeg]
    split_ifs
    · rfl
    · exact ih _ _ _
    · exact ih _ _ _

/-- `d·(−P) = −(d·P)`. -/
theorem scalarMul_pointNeg (d : Nat) (a : Point) : scalarMul d (pointNeg a) = pointNeg (scalarMul d a) :=
  scalarMulBits_pointNeg _ _ .infinity a

/-- Settles O51: the two points over an x are each other's negatives, and so are their products. -/
theorem ecdhParityIndependent : Obligations.EcdhParityIndependent := by
  intro d x y _ hpos hlt
  rw [← pointNeg_affine x hpos hlt, scalarMul_pointNeg, pointX_pointNeg]

/-! ### ECDH_X (R119-R121) -/

theorem exec_ecdhX (d x : Bytes) (s : State) : exec (.ecdhX d x) s = .next (finishOne s (ecdh d x)) := rfl

@[simp] theorem length_pointX (a : Point) : (pointX a).length = 32 := by
  cases a <;> exact length_beNat _ _

/-- Settles O49. -/
theorem ecdhResult : Obligations.EcdhResult := by
  refine fun s d x => ⟨fun pt hmin hmax h => ⟨?ok, length_pointX _⟩, fun h => ?scalar, fun e hmin hmax h => ?point⟩
  case ok =>
    rw [exec_ecdhX, ecdh_of_liftX_ok hmin hmax h]
    rfl
  case scalar =>
    rw [exec_ecdhX, ecdh_of_illegal_scalar x h]
    rfl
  case point =>
    obtain rfl := liftX_error h
    rw [exec_ecdhX, ecdh_of_liftX_error hmin hmax h]
    rfl

/-- The loop runs once, and adds the point to O. -/
theorem scalarMul_one (a : Point) : scalarMul 1 a = a := by
  cases a <;> rfl

/-- Settles O50: 1·P is P, over the given x. -/
theorem ecdhScalarOne : Obligations.EcdhScalarOne := by
  intro s x pt hlen h
  have hone : intBe (List.replicate 31 0x00 ++ [0x01]) = 1 := by decide
  obtain ⟨y, rfl, -⟩ := liftXOnCurve _ _ h
  have hx : pointX (.affine (intBe x) y) = x := by
    rw [pointX, ← hlen, beNat_intBe]
  obtain ⟨hresult, -⟩ := (ecdhResult s _ x).1 _ (by rw [hone]) (by rw [hone]; decide) h
  rw [hresult, hone, scalarMul_one, hx]

end Sys2Proof.Machine
end

section
/-! U4, the ChaCha20 stream cipher (45_chacha20.md R123-R128): CHACHA20 is the XOR of the data with one keystream, which the key,
the nonce, the counter and the length of the data alone determine. -/

namespace Sys2Proof.Machine

/-! ### The block function gives 64 bytes (R123-R125) -/

@[simp] theorem length_quarterRound (i j k l : Nat) (w : List Word) : (quarterRound i j k l w).length = w.length := by
  simp only [quarterRound, List.length_set]

@[simp] theorem length_chachaDoubleRound (w : List Word) : (chachaDoubleRound w).length = w.length := by
  simp only [chachaDoubleRound, length_quarterRound]

@[simp] theorem length_chachaRounds (n : Nat) (w : List Word) : (chachaRounds n w).length = w.length := by
  induction n generalizing w with
  | zero => rfl
  | succ n ih => rw [chachaRounds, ih, length_chachaDoubleRound]

@[simp] theorem length_chachaInit (key : Bytes) (ctr : Word) (nonce : Bytes) : (chachaInit key ctr nonce).length = 16 := by
  simp [chachaInit, chachaConstants]

@[simp] theorem length_chachaBlock (key : Bytes) (ctr : Word) (nonce : Bytes) : (chachaBlock key ctr nonce).length = 64 := by
  simp only [chachaBlock, List.length_flatMap, length_le32, List.map_const', List.length_zipWith, length_chachaRounds,
    length_chachaInit, Nat.min_self, List.sum_replicate, smul_eq_mul]

/-! ### The keystream (R126) -/

/-- The `n` keystream blocks from the counter value `ctr` on, joined. -/
def chachaKeystream (key nonce : Bytes) (ctr n : Nat) : Bytes :=
  (List.range' ctr n).flatMap fun j => chachaBlock key (BitVec.ofNat 32 j) nonce

theorem chachaKeystream_succ (key nonce : Bytes) (ctr n : Nat) :
    chachaKeystream key nonce ctr (n + 1) =
      chachaBlock key (BitVec.ofNat 32 ctr) nonce ++ chachaKeystream key nonce (ctr + 1) n := rfl

theorem length_chachaKeystream (key nonce : Bytes) (ctr n : Nat) : (chachaKeystream key nonce ctr n).length = 64 * n := by
  simp [chachaKeystream, List.length_flatMap, Nat.mul_comm]

/-- An XOR with joined bytes works on the data in two parts, of which the second may be empty. -/
theorem xorBytes_append_right (data a b : Bytes) :
    xorBytes data (a ++ b) = xorBytes (data.take a.length) a ++ xorBytes (data.drop a.length) b := by
  induction a generalizing data with
  | nil => rfl
  | cons v a ih =>
    cases data with
    | nil => rfl
    | cons d data => exact congrArg ((d ^^^ v) :: ·) (ih data)

/-- The loop over the pieces is one XOR with the keystream, whose end a short last piece cuts off. -/
theorem chachaPieces_chunksOf (key nonce : Bytes) (ctr n : Nat) (data : Bytes) :
    chachaPieces key nonce ctr (chunksOf 64 n data) = xorBytes data (chachaKeystream key nonce ctr n) := by
  induction n generalizing ctr data with
  | zero => exact List.zipWith_nil_right.symm
  | succ n ih =>
    rw [chunksOf, chachaPieces, ih, chachaKeystream_succ, xorBytes_append_right, length_chachaBlock]

/-- The bytes past the end of the data do not enter an XOR with it. -/
theorem xorBytes_take_right (a b : Bytes) : xorBytes a (b.take a.length) = xorBytes a b := by
  have hcut : (xorBytes a b).take a.length = xorBytes a b := List.take_of_length_le (by simp [length_xorBytes])
  rw [← hcut, xorBytes, xorBytes, List.take_zipWith, List.take_length]

theorem xorBytes_xorBytes_of_length_le {a b : Bytes} (h : a.length ≤ b.length) : xorBytes (xorBytes a b) b = a := by
  have hlen : (xorBytes a b).length = a.length := by rw [length_xorBytes, Nat.min_eq_left h]
  rw [← xorBytes_take_right (xorBytes a b), hlen, ← xorBytes_take_right a]
  exact xorBytes_xorBytes (List.length_take_of_le h).symm

/-! ### CHACHA20 (R126-R128) -/

/-- The keystream blocks cover the data. -/
theorem le_chachaBlockCount (data : Bytes) : data.length ≤ 64 * chachaBlockCount data := by
  unfold chachaBlockCount
  omega

/-- What CHACHA20 returns, and that the count of blocks alone decides whether it does. -/
theorem chacha20_eq_ok_iff {key nonce data out : Bytes} {ctr : Word} :
    chacha20 key nonce ctr data = .ok out ↔
      (chachaBlockCount data = 0 ∨ ctr.toNat + chachaBlockCount data ≤ 2 ^ 32) ∧
        xorBytes data (chachaKeystream key nonce ctr.toNat (chachaBlockCount data)) = out := by
  rw [chacha20, chachaPieces_chunksOf]
  split_ifs with hover
  · simp only [false_iff, not_and]
    omega
  · rw [Except.ok.injEq, and_iff_right (by omega)]

theorem chacha20_of_counter_overflow {data : Bytes} {ctr : Word} (key nonce : Bytes) (hdata : data ≠ [])
    (h : 2 ^ 32 < ctr.toNat + chachaBlockCount data) : chacha20 key nonce ctr data = .error .chachaCounter := by
  have hlen := List.length_pos_of_ne_nil hdata
  have hcover := le_chachaBlockCount data
  exact if_pos (by omega)

theorem length_of_chacha20_eq_ok {key nonce data out : Bytes} {ctr : Word} (h : chacha20 key nonce ctr data = .ok out) :
    out.length = data.length := by
  obtain ⟨-, rfl⟩ := chacha20_eq_ok_iff.1 h
  rw [length_xorBytes, length_chachaKeystream, Nat.min_eq_left (le_chachaBlockCount data)]

theorem exec_chacha20 (key nonce : Bytes) (ctr : Word) (data : Bytes) (s : State) :
    exec (.chacha20 key nonce ctr data) s = .next (finishOne s (chacha20 key nonce ctr data)) := rfl

/-- Settles O52. -/
theorem chacha20Result : Obligations.Chacha20Result := by
  refine fun s key nonce data ctr => ⟨fun hfits => ?ok, fun ⟨hdata, hover⟩ => ?overflow⟩
  case ok =>
    have hcount : chachaBlockCount data = 0 ∨ ctr.toNat + chachaBlockCount data ≤ 2 ^ 32 :=
      hfits.imp_left fun hnil => by rw [hnil]; rfl
    have hok : chacha20 key nonce ctr data = .ok _ := chacha20_eq_ok_iff.2 ⟨hcount, rfl⟩
    refine ⟨_, hok, ?_, length_of_chacha20_eq_ok hok⟩
    rw [exec_chacha20, hok]
    rfl
  case overflow =>
    rw [exec_chacha20, chacha20_of_counter_overflow key nonce hdata hover]
    rfl

/-- Settles O53: the output is as long as the data, so both runs have one keystream. -/
theorem chacha20SelfInverse : Obligations.Chacha20SelfInverse := by
  intro key nonce m c ctr h
  have hcount : chachaBlockCount c = chachaBlockCount m := by
    rw [chachaBlockCount, length_of_chacha20_eq_ok h, chachaBlockCount]
  obtain ⟨hfits, rfl⟩ := chacha20_eq_ok_iff.1 h
  refine chacha20_eq_ok_iff.2 ⟨by rwa [hcount], ?_⟩
  rw [hcount]
  exact xorBytes_xorBytes_of_length_le (length_chachaKeystream .. ▸ le_chachaBlockCount m)

end Sys2Proof.Machine
end

section
/-! Strict base64 (46_nip44.md R129, R130): B64DEC accepts the texts that B64ENC writes and no others, group by group. -/

namespace Sys2Proof.Machine

/-! ### The characters -/

/-- The characters that have an index are those of the 64 indices (46_nip44.md R129). -/
theorem base64Index_eq_some_iff {ch : Byte} {v : Nat} : base64Index ch = some v ↔ v < 64 ∧ base64Char v = ch := by
  constructor
  · have of_index : ∀ c : Byte, ∀ i ∈ base64Index c, i < 64 ∧ base64Char i = c := by decide +kernel
    exact of_index ch v
  · rintro ⟨hv, rfl⟩
    have of_char : ∀ i < 64, base64Index (base64Char i) = some i := by decide +kernel
    exact of_char v hv

theorem base64Index_base64Char {v : Nat} (h : v < 64) : base64Index (base64Char v) = some v :=
  base64Index_eq_some_iff.2 ⟨h, rfl⟩

/-- The pad character has no index. -/
theorem base64Char_ne_base64Pad {v : Nat} (h : v < 64) : base64Char v ≠ base64Pad := by
  intro hpad
  have hindex := base64Index_base64Char h
  rw [hpad] at hindex
  cases hindex

/-! ### Three bytes and their integer -/

theorem intBe_lt (b : Bytes) : intBe b < 256 ^ b.length := by
  induction b using List.reverseRecOn with
  | nil => decide
  | append_singleton b v ih =>
    have hv : v.toNat < 256 := v.isLt
    rw [intBe_concat, List.length_append, List.length_singleton, pow_succ]
    omega

theorem intBe_beNat {k v : Nat} (h : v < 256 ^ k) : intBe (beNat k v) = v := by
  induction k generalizing v with
  | zero =>
    obtain rfl : v = 0 := by simpa using h
    rfl
  | succ k ih =>
    rw [pow_succ] at h
    rw [beNat, intBe_concat, ih (by omega), BitVec.toNat_ofNat]
    omega

/-- Zero bytes at the end shift the integer up. -/
theorem intBe_append_zeros (b : Bytes) (n : Nat) : intBe (b ++ zeros n) = intBe b * 256 ^ n := by
  induction n with
  | zero => simp [zeros]
  | succ n ih =>
    rw [zeros, List.replicate_succ', ← List.append_assoc, intBe_concat, ← zeros, ih, pow_succ]
    simp [Nat.mul_assoc]

/-- The low bytes of a multiple of a power of 256 are zero. -/
theorem beNat_mul_pow (k n v : Nat) : beNat (k + n) (v * 256 ^ n) = beNat k v ++ zeros n := by
  induction n with
  | zero => simp [zeros]
  | succ n ih =>
    have hdiv : v * 256 ^ (n + 1) / 256 = v * 256 ^ n := by
      rw [pow_succ, ← Nat.mul_assoc, Nat.mul_div_cancel _ (by decide)]
    have hlow : BitVec.ofNat 8 (v * 256 ^ (n + 1)) = 0 := by
      apply BitVec.eq_of_toNat_eq
      rw [BitVec.toNat_ofNat, pow_succ, ← Nat.mul_assoc]
      exact Nat.mul_mod_left _ _
    rw [← Nat.add_assoc, beNat, hdiv, ih, hlow, List.append_assoc, zeros, zeros, ← List.replicate_succ']

theorem toNat_u24be (a b c : Byte) : (u24be [a, b, c]).toNat = intBe [a, b, c] := by
  have happend : (u24be [a, b, c]).toNat = (a.toNat <<< 8 ||| b.toNat) <<< 8 ||| c.toNat := by
    show (a ++ b ++ c).toNat = _
    rw [BitVec.toNat_append, BitVec.toNat_append]
  rw [happend, ← Nat.shiftLeft_add_eq_or_of_lt b.isLt, ← Nat.shiftLeft_add_eq_or_of_lt c.isLt, Nat.shiftLeft_eq,
    Nat.shiftLeft_eq]
  simp [intBe]

/-! ### One group -/

/-- The four 6-bit parts of a 24-bit value, the highest first. -/
def base64Sextet (v j : Nat) : Nat := v / 64 ^ (3 - j) % 64

theorem base64Sextet_lt (v j : Nat) : base64Sextet v j < 64 := Nat.mod_lt _ (by decide)

/-- The 4-character group of the 24-bit value `v` with `np` pad characters (`base64Group_eq_base64Text`). -/
def base64Text (np v : Nat) : Bytes :=
  [base64Char (base64Sextet v 0), base64Char (base64Sextet v 1),
   if np = 2 then base64Pad else base64Char (base64Sextet v 2),
   if 1 ≤ np then base64Pad else base64Char (base64Sextet v 3)]

/-- The group of `g` is the text of `g` filled with zero bytes to three. -/
theorem base64Group_eq_base64Text {g : Bytes} (hmin : 1 ≤ g.length) (hmax : g.length ≤ 3) :
    base64Group g = base64Text (3 - g.length) (intBe g * 256 ^ (3 - g.length)) := by
  have hfill : (g ++ zeros (3 - g.length)).length = 3 := by
    rw [List.length_append, length_zeros]
    omega
  obtain ⟨a, b, c, habc⟩ := List.length_eq_three.1 hfill
  have hvalue : (u24be (g ++ zeros (3 - g.length))).toNat = intBe g * 256 ^ (3 - g.length) := by
    rw [← intBe_append_zeros, habc, toNat_u24be]
  have hone : g.length = 1 ↔ 3 - g.length = 2 := by omega
  have htwo : g.length ≤ 2 ↔ 1 ≤ 3 - g.length := by omega
  simp only [base64Group, base64Text, base64Sextet, BitVec.extractLsb'_toNat, Nat.shiftRight_eq_div_pow, hvalue, hone, htwo]
  norm_num

/-- What the pad count can be: pads stand at the end of the last group only (46_nip44.md R130). -/
theorem base64PadCount_cases (isLast : Bool) (q : Bytes) :
    base64PadCount isLast q = 0 ∨
    (base64PadCount isLast q = 1 ∧ isLast = true ∧ q.getD 3 0 = base64Pad) ∨
    (base64PadCount isLast q = 2 ∧ isLast = true ∧ q.getD 3 0 = base64Pad ∧ q.getD 2 0 = base64Pad) := by
  unfold base64PadCount
  split_ifs with hlast htwo
  · exact .inr (.inr ⟨rfl, hlast.1, hlast.2, htwo⟩)
  · exact .inr (.inl ⟨rfl, hlast⟩)
  · exact .inl rfl

theorem base64PadCount_le (isLast : Bool) (q : Bytes) : base64PadCount isLast q ≤ 2 := by
  rcases base64PadCount_cases isLast q with h | ⟨h, -⟩ | ⟨h, -⟩ <;> omega

theorem isLast_of_base64PadCount_ne_zero {isLast : Bool} {q : Bytes} (h : base64PadCount isLast q ≠ 0) :
    isLast = true := by
  rcases base64PadCount_cases isLast q with h0 | ⟨-, hlast, -⟩ | ⟨-, hlast, -⟩
  · exact absurd h0 h
  · exact hlast
  · exact hlast

theorem base64PadCount_base64Text {isLast : Bool} {np : Nat} (v : Nat) (hnp : np ≤ 2) (hlast : np ≠ 0 → isLast = true) :
    base64PadCount isLast (base64Text np v) = np := by
  have hchar (j : Nat) : base64Char (base64Sextet v j) ≠ base64Pad := base64Char_ne_base64Pad (base64Sextet_lt v j)
  interval_cases np
  · simp [base64PadCount, base64Text, hchar]
  · simp [base64PadCount, base64Text, hchar, hlast]
  · simp [base64PadCount, base64Text, hlast]

/-- A position before the pads has the index of its character; a pad position counts as 0. -/
theorem base64Value_eq_some_iff {np j a : Nat} {q : Bytes} :
    base64Value np q j = some a ↔ if 4 - np ≤ j then a = 0 else a < 64 ∧ base64Char a = q.getD j 0 := by
  unfold base64Value
  split_ifs
  · rw [Option.some.injEq, eq_comm]
  · exact base64Index_eq_some_iff

/-- The value of four indices (46_nip44.md R130). -/
def base64Join (a0 a1 a2 a3 : Nat) : Nat := a0 * 2 ^ 18 + a1 * 2 ^ 12 + a2 * 2 ^ 6 + a3

/-- What a group decodes to: its characters have indices, and the bits that no byte takes are 0. -/
theorem base64DecodeGroup_eq_ok_iff_values {isLast : Bool} {q b : Bytes} {np : Nat} (hnp : base64PadCount isLast q = np) :
    base64DecodeGroup isLast q = .ok b ↔
      ∃ a0 a1 a2 a3, base64Value np q 0 = some a0 ∧ base64Value np q 1 = some a1 ∧ base64Value np q 2 = some a2 ∧
        base64Value np q 3 = some a3 ∧ base64Join a0 a1 a2 a3 % 256 ^ np = 0 ∧
          (beNat 3 (base64Join a0 a1 a2 a3)).take (3 - np) = b := by
  have hle : np ≤ 2 := hnp ▸ base64PadCount_le isLast q
  simp only [base64DecodeGroup, hnp]
  split
  · next a0 a1 a2 a3 h0 h1 h2 h3 =>
    simp only [h0, h1, h2, h3, Option.some.injEq, exists_and_left, exists_eq_left', base64Join]
    interval_cases np <;> simp [Nat.mod_one, ite_eq_iff]
  · next hnone =>
    simp only [reduceCtorEq, false_iff]
    rintro ⟨a0, a1, a2, a3, h0, h1, h2, h3, -⟩
    exact hnone a0 a1 a2 a3 h0 h1 h2 h3

theorem base64Sextet_base64Join {a0 a1 a2 a3 : Nat} (h0 : a0 < 64) (h1 : a1 < 64) (h2 : a2 < 64) (h3 : a3 < 64) :
    base64Sextet (base64Join a0 a1 a2 a3) 0 = a0 ∧ base64Sextet (base64Join a0 a1 a2 a3) 1 = a1 ∧
      base64Sextet (base64Join a0 a1 a2 a3) 2 = a2 ∧ base64Sextet (base64Join a0 a1 a2 a3) 3 = a3 := by
  simp only [base64Sextet, base64Join]
  omega

theorem base64Join_base64Sextet {v : Nat} (h : v < 2 ^ 24) :
    base64Join (base64Sextet v 0) (base64Sextet v 1) (base64Sextet v 2) (base64Sextet v 3) = v := by
  simp only [base64Sextet, base64Join]
  omega

/-- A value that decodes with `np` pads has its bytes in the first `3 - np` of its three. -/
theorem take_beNat_mul_pow {np u : Nat} (hnp : np ≤ 2) :
    (beNat 3 (u * 256 ^ np)).take (3 - np) = beNat (3 - np) u := by
  have hsum : 3 - np + np = 3 := by omega
  have hsplit := beNat_mul_pow (3 - np) np u
  rw [hsum] at hsplit
  rw [hsplit, List.take_left' (length_beNat _ _)]

/-- The parts of a value that the `np` pads leave whole are the values of its text. -/
theorem base64Value_base64Text {np u j : Nat} (hnp : np ≤ 2) (hj : j < 4) :
    base64Value np (base64Text np (u * 256 ^ np)) j = some (base64Sextet (u * 256 ^ np) j) := by
  rw [base64Value_eq_some_iff]
  split_ifs with hpad
  · have hdvd : 64 * 64 ^ (3 - j) ∣ 256 ^ np := by
      interval_cases np <;> interval_cases j <;> omega
    obtain ⟨k, hk⟩ := hdvd.mul_left u
    rw [base64Sextet, hk, Nat.mul_right_comm, Nat.mul_div_cancel _ (by positivity), Nat.mul_mod_right]
  · refine ⟨base64Sextet_lt _ _, ?_⟩
    interval_cases np <;> interval_cases j <;> rfl

/-- B64DEC reads back a group that B64ENC wrote. -/
theorem base64DecodeGroup_base64Group {isLast : Bool} {g : Bytes} (hmin : 1 ≤ g.length) (hmax : g.length ≤ 3)
    (hlast : g.length < 3 → isLast = true) : base64DecodeGroup isLast (base64Group g) = .ok g := by
  obtain ⟨np, hnp, hlen⟩ : ∃ np, np ≤ 2 ∧ g.length = 3 - np := ⟨3 - g.length, by omega, by omega⟩
  have hu : intBe g < 256 ^ (3 - np) := hlen ▸ intBe_lt g
  have hlt : intBe g * 256 ^ np < 2 ^ 24 := by interval_cases np <;> omega
  rw [base64Group_eq_base64Text hmin hmax, show 3 - g.length = np by omega]
  have hcount := base64PadCount_base64Text (intBe g * 256 ^ np) hnp fun h => hlast (by omega)
  refine (base64DecodeGroup_eq_ok_iff_values hcount).2 ⟨_, _, _, _, base64Value_base64Text hnp (by decide),
    base64Value_base64Text hnp (by decide), base64Value_base64Text hnp (by decide),
    base64Value_base64Text hnp (by decide), ?unused, ?bytes⟩
  case unused => rw [base64Join_base64Sextet hlt, Nat.mul_mod_left]
  case bytes => rw [base64Join_base64Sextet hlt, take_beNat_mul_pow hnp, ← hlen, beNat_intBe]

theorem base64Value_lt {np j a : Nat} {q : Bytes} (h : base64Value np q j = some a) : a < 64 := by
  rw [base64Value_eq_some_iff] at h
  split_ifs at h
  · omega
  · exact h.1

/-- A position before the pads holds the character of its value. -/
theorem base64Char_of_base64Value {np j a : Nat} {q : Bytes} (h : base64Value np q j = some a) (hj : j < 4 - np) :
    base64Char a = q.getD j 0 := by
  rw [base64Value_eq_some_iff, if_neg (by omega)] at h
  exact h.2

/-- The values of a group make it the text of their join, with its own count of pads. -/
theorem base64Text_base64Join {isLast : Bool} {q : Bytes} {a0 a1 a2 a3 : Nat} (hq : q.length = 4)
    (h0 : base64Value (base64PadCount isLast q) q 0 = some a0) (h1 : base64Value (base64PadCount isLast q) q 1 = some a1)
    (h2 : base64Value (base64PadCount isLast q) q 2 = some a2) (h3 : base64Value (base64PadCount isLast q) q 3 = some a3) :
    base64Text (base64PadCount isLast q) (base64Join a0 a1 a2 a3) = q := by
  obtain ⟨s0, s1, s2, s3⟩ :=
    base64Sextet_base64Join (base64Value_lt h0) (base64Value_lt h1) (base64Value_lt h2) (base64Value_lt h3)
  have hchars : q = [q.getD 0 0, q.getD 1 0, q.getD 2 0, q.getD 3 0] := by
    obtain ⟨c0, c1, c2, c3, tl, rfl⟩ := exists_four_cons hq.ge
    simpa using hq
  have hc0 := base64Char_of_base64Value h0
  have hc1 := base64Char_of_base64Value h1
  have hc2 := base64Char_of_base64Value h2
  have hc3 := base64Char_of_base64Value h3
  rw [base64Text, s0, s1, s2, s3]
  refine Eq.trans ?_ hchars.symm
  rcases base64PadCount_cases isLast q with hnp | ⟨hnp, -, hpad3⟩ | ⟨hnp, -, hpad3, hpad2⟩ <;>
    rw [hnp] at hc0 hc1 hc2 hc3 ⊢
  · rw [hc0 (by decide), hc1 (by decide), hc2 (by decide), hc3 (by decide)]
    rfl
  · rw [hc0 (by decide), hc1 (by decide), hc2 (by decide), hpad3]
    rfl
  · rw [hc0 (by decide), hc1 (by decide), hpad2, hpad3]
    rfl

theorem base64Join_lt {a0 a1 a2 a3 : Nat} (h0 : a0 < 64) (h1 : a1 < 64) (h2 : a2 < 64) (h3 : a3 < 64) :
    base64Join a0 a1 a2 a3 < 2 ^ 24 := by
  rw [base64Join]
  omega

/-- A group that decodes is the one that B64ENC writes for its bytes; with fewer than three it is the last. -/
theorem base64Group_of_base64DecodeGroup {isLast : Bool} {q b : Bytes} (hq : q.length = 4)
    (h : base64DecodeGroup isLast q = .ok b) :
    base64Group b = q ∧ 1 ≤ b.length ∧ b.length ≤ 3 ∧ (b.length < 3 → isLast = true) := by
  obtain ⟨a0, a1, a2, a3, h0, h1, h2, h3, hunused, hbytes⟩ := (base64DecodeGroup_eq_ok_iff_values rfl).1 h
  have htext := base64Text_base64Join hq h0 h1 h2 h3
  have hlt := base64Join_lt (base64Value_lt h0) (base64Value_lt h1) (base64Value_lt h2) (base64Value_lt h3)
  have hnp := base64PadCount_le isLast q
  have hlast := isLast_of_base64PadCount_ne_zero (isLast := isLast) (q := q)
  generalize base64PadCount isLast q = np at *
  obtain ⟨u, hu⟩ := Nat.dvd_of_mod_eq_zero hunused
  rw [Nat.mul_comm] at hu
  rw [hu] at htext hlt hbytes
  rw [take_beNat_mul_pow hnp] at hbytes
  have hlen : b.length = 3 - np := by rw [← hbytes, length_beNat]
  have hubound : u < 256 ^ (3 - np) := by interval_cases np <;> omega
  refine ⟨?_, by omega, by omega, fun h => hlast (by omega)⟩
  rw [base64Group_eq_base64Text (by omega) (by omega), show 3 - b.length = np by omega, ← hbytes, intBe_beNat hubound, htext]

/-! ### The groups of a text -/

/-- A text of at least one group decodes group by group. -/
theorem base64Decode_append_eq_ok_iff {q : Bytes} (hq : q.length = 4) (t b : Bytes) :
    base64Decode (q ++ t) = .ok b ↔
      ∃ b1 b2, base64DecodeGroup t.isEmpty q = .ok b1 ∧ base64Decode t = .ok b2 ∧ b1 ++ b2 = b := by
  have hlen : (q ++ t).length = t.length + 4 := by rw [List.length_append, hq, Nat.add_comm]
  by_cases hmod : t.length % 4 = 0
  case neg =>
    rw [base64Decode, base64Decode, if_pos hmod, if_pos (by omega)]
    simp
  have hempty : (chunksOf 4 (t.length / 4) t).isEmpty = t.isEmpty := by
    rw [Bool.eq_iff_iff, List.isEmpty_iff_length_eq_zero, List.isEmpty_iff_length_eq_zero, length_chunksOf]
    omega
  rw [base64Decode, base64Decode, if_neg (by omega), if_neg (by omega), hlen, Nat.add_div_right _ (by decide), chunksOf,
    List.take_left' hq, List.drop_left' hq, base64DecodeGroups, hempty]
  cases base64DecodeGroup t.isEmpty q with
  | error e => simp
  | ok b1 => cases base64DecodeGroups (chunksOf 4 (t.length / 4) t) <;> simp

/-- B64ENC writes a group for the first bytes and then the rest; a short group ends the text. -/
theorem base64Encode_append {g b : Bytes} (hmin : 1 ≤ g.length) (hmax : g.length ≤ 3) (hlast : g.length < 3 → b = []) :
    base64Encode (g ++ b) = base64Group g ++ base64Encode b := by
  have hcount : ((g ++ b).length + 2) / 3 = (b.length + 2) / 3 + 1 := by
    rw [List.length_append]
    rcases Nat.lt_or_eq_of_le hmax with h | h
    · rw [hlast h, List.length_nil]
      omega
    · omega
  have hcut : (g ++ b).take 3 = g ∧ (g ++ b).drop 3 = b := by
    rcases Nat.lt_or_eq_of_le hmax with h | h
    · rw [hlast h, List.append_nil]
      exact ⟨List.take_of_length_le hmax, List.drop_of_length_le hmax⟩
    · exact ⟨List.take_left' h, List.drop_left' h⟩
  rw [base64Encode, hcount, chunksOf, hcut.1, hcut.2, List.flatMap_cons, base64Encode]

@[simp] theorem length_base64Group (g : Bytes) : (base64Group g).length = 4 := rfl

theorem length_base64Encode (b : Bytes) : (base64Encode b).length = 4 * ((b.length + 2) / 3) := by
  simp [base64Encode, List.length_flatMap, Nat.mul_comm]

theorem isEmpty_base64Encode (b : Bytes) : (base64Encode b).isEmpty = b.isEmpty := by
  rw [Bool.eq_iff_iff, List.isEmpty_iff_length_eq_zero, List.isEmpty_iff_length_eq_zero, length_base64Encode]
  omega

/-- B64DEC reads back what B64ENC wrote, by induction on the groups of three bytes. -/
theorem base64Decode_base64Encode (b : Bytes) : base64Decode (base64Encode b) = .ok b := by
  induction hn : b.length using Nat.strong_induction_on generalizing b with
  | _ n ih =>
    rcases eq_or_ne b [] with rfl | hne
    · rfl
    have hpos := List.length_pos_of_ne_nil hne
    have hlast (h : (b.take 3).length < 3) : b.drop 3 = [] := by
      rw [List.length_take] at h
      exact List.drop_of_length_le (by omega)
    have hmin : 1 ≤ (b.take 3).length := by rw [List.length_take]; omega
    have hrest : base64Decode (base64Encode (b.drop 3)) = .ok (b.drop 3) :=
      ih _ (by rw [List.length_drop]; omega) _ rfl
    have hgroup : base64DecodeGroup (base64Encode (b.drop 3)).isEmpty (base64Group (b.take 3)) = .ok (b.take 3) :=
      base64DecodeGroup_base64Group hmin (List.length_take_le _ _) fun h => by rw [isEmpty_base64Encode, hlast h]; rfl
    have hsplit := base64Encode_append hmin (List.length_take_le _ _) hlast
    rw [List.take_append_drop] at hsplit
    rw [hsplit]
    exact (base64Decode_append_eq_ok_iff (length_base64Group _) _ _).2 ⟨_, _, hgroup, hrest, List.take_append_drop 3 b⟩

/-- Settles O54. -/
theorem base64RoundTrip : Obligations.Base64RoundTrip := fun b => ⟨base64Decode_base64Encode b, length_base64Encode b⟩

/-- An accepted text is a whole number of groups. -/
theorem length_mod_of_base64Decode {t b : Bytes} (h : base64Decode t = .ok b) : t.length % 4 = 0 := by
  by_contra hmod
  rw [base64Decode, if_pos hmod] at h
  cases h

/-- B64DEC accepts what B64ENC writes alone, by induction on the groups of four characters. -/
theorem base64Encode_of_base64Decode {t b : Bytes} (h : base64Decode t = .ok b) : base64Encode b = t := by
  induction hn : t.length using Nat.strong_induction_on generalizing t b with
  | _ n ih =>
    rcases eq_or_ne t [] with rfl | hne
    · obtain rfl : [] = b := Except.ok.inj h
      rfl
    have hmod := length_mod_of_base64Decode h
    have hpos := List.length_pos_of_ne_nil hne
    have hq : (t.take 4).length = 4 := List.length_take_of_le (by omega)
    rw [← List.take_append_drop 4 t, base64Decode_append_eq_ok_iff hq] at h
    obtain ⟨b1, b2, hgroup, hrest, rfl⟩ := h
    obtain ⟨hb1, hmin, hmax, hlast⟩ := base64Group_of_base64DecodeGroup hq hgroup
    have hb2 : base64Encode b2 = t.drop 4 := ih _ (by rw [List.length_drop]; omega) hrest rfl
    have hshort (h : b1.length < 3) : b2 = [] := by
      rw [← List.isEmpty_iff, ← isEmpty_base64Encode, hb2]
      exact hlast h
    rw [base64Encode_append hmin hmax hshort, hb1, hb2, List.take_append_drop]

/-- Settles O55. -/
theorem base64AcceptsOnlyEncoded : Obligations.Base64AcceptsOnlyEncoded := fun _ _ => base64Encode_of_base64Decode

end Sys2Proof.Machine
end

section
/-! The padded length of NIP-44 (46_nip44.md R131): the length rounded up to a power of two. -/

namespace Sys2Proof.Machine

/-! ### Rounding up -/

/-- `len` rounded up to a multiple of `d`; 0 to `d` itself. -/
def roundUp (d len : Nat) : Nat := d * ((len - 1) / d + 1)

theorem le_roundUp {d : Nat} (hd : 0 < d) (len : Nat) : len ≤ roundUp d len := by
  have h := Nat.lt_mul_div_succ (len - 1) hd
  rw [roundUp]
  omega

theorem dvd_roundUp (d len : Nat) : d ∣ roundUp d len := Nat.dvd_mul_right _ _

/-- It is the least multiple. -/
theorem roundUp_le {d len n : Nat} (hdvd : d ∣ n) (hlt : len - 1 < n) : roundUp d len ≤ n := by
  obtain ⟨k, rfl⟩ := hdvd
  exact Nat.mul_le_mul_left d (Nat.div_lt_of_lt_mul hlt)

/-! ### The padded length -/

theorem bitlen_le_iff {v k : Nat} : bitlen v ≤ k ↔ v < 2 ^ k := by
  unfold bitlen
  split_ifs with h
  · simp [h]
  · rw [Nat.succ_le_iff, Nat.log2_lt h]

/-- The exponent of the chunk: at least 5, for a chunk of 32 bytes, then an eighth of the next power of two. -/
def chunkBits (len : Nat) : Nat := max 5 (bitlen (len - 1) - 3)

theorem chunkBits_mono {l l' : Nat} (h : l ≤ l') : chunkBits l ≤ chunkBits l' := by
  have hbits : bitlen (l - 1) ≤ bitlen (l' - 1) :=
    bitlen_le_iff.2 ((Nat.sub_le_sub_right h 1).trans_lt (lt_two_pow_bitlen _))
  unfold chunkBits
  omega

/-- Both cases of 46_nip44.md R131 round up to the chunk. -/
theorem calcPaddedLen_eq_roundUp (len : Nat) : calcPaddedLen len = roundUp (2 ^ chunkBits len) len := by
  unfold calcPaddedLen
  split_ifs with hsmall
  · have hbits : bitlen (len - 1) ≤ 5 := bitlen_le_iff.2 (by omega)
    rw [chunkBits, Nat.max_eq_left (by omega), roundUp]
    omega
  have hchunk : (if 2 ^ bitlen (len - 1) ≤ 256 then 32 else 2 ^ bitlen (len - 1) / 8) = 2 ^ chunkBits len := by
    have hsmallest : 2 ^ bitlen (len - 1) ≤ 256 ↔ bitlen (len - 1) ≤ 8 := Nat.pow_le_pow_iff_right (m := 8) Nat.one_lt_two
    rw [chunkBits]
    split_ifs with h <;> rw [hsmallest] at h
    · rw [Nat.max_eq_left (by omega)]
      rfl
    · rw [Nat.max_eq_right (by omega), show 8 = 2 ^ 3 by rfl, Nat.pow_div (by omega) (by decide)]
  simp only [hchunk, roundUp]

theorem le_calcPaddedLen (len : Nat) : len ≤ calcPaddedLen len := by
  rw [calcPaddedLen_eq_roundUp]
  exact le_roundUp (by positivity) len

theorem dvd_calcPaddedLen (len : Nat) : 32 ∣ calcPaddedLen len := by
  rw [calcPaddedLen_eq_roundUp]
  exact (Nat.pow_dvd_pow 2 (Nat.le_max_left 5 _)).trans (dvd_roundUp _ len)

theorem calcPaddedLen_bounds {len : Nat} (hmin : 1 ≤ len) (hmax : len ≤ 65535) :
    32 ≤ calcPaddedLen len ∧ calcPaddedLen len ≤ 65536 := by
  constructor
  · exact Nat.le_of_dvd (hmin.trans (le_calcPaddedLen len)) (dvd_calcPaddedLen len)
  · have hbits : bitlen (len - 1) ≤ 16 := bitlen_le_iff.2 (by omega)
    have hexp : chunkBits len ≤ 16 := by
      unfold chunkBits
      omega
    rw [calcPaddedLen_eq_roundUp]
    exact roundUp_le (Nat.pow_dvd_pow 2 hexp) (by omega)

/-- A larger length has a larger chunk, of which the smaller one is a divisor. -/
theorem calcPaddedLen_mono {l l' : Nat} (hmin : 1 ≤ l) (h : l ≤ l') : calcPaddedLen l ≤ calcPaddedLen l' := by
  have hle := le_calcPaddedLen l'
  rw [calcPaddedLen_eq_roundUp l]
  refine roundUp_le ?_ (by omega)
  rw [calcPaddedLen_eq_roundUp l']
  exact (Nat.pow_dvd_pow 2 (chunkBits_mono h)).trans (dvd_roundUp _ l')

/-- Settles O56. -/
theorem paddedLengthBounds : Obligations.PaddedLengthBounds := by
  intro l hmin hmax
  obtain ⟨hlow, hhigh⟩ := calcPaddedLen_bounds hmin hmax
  exact ⟨le_calcPaddedLen l, hlow, hhigh, Nat.mod_eq_zero_of_dvd (dvd_calcPaddedLen l),
    fun _ hle _ => calcPaddedLen_mono hmin hle⟩

end Sys2Proof.Machine
end

section
/-! The NIP-44 envelope (46_nip44.md R132-R143): what NIP44_ENCRYPT writes, and what NIP44_DECRYPT makes of an envelope. -/

namespace Sys2Proof.Machine

/-! ### The comparison of the MACs (R134, R141) -/

/-- An OR over a list is zero where every member is. -/
theorem foldl_or_eq_zero_iff {α : Type} (f : α → Byte) (l : List α) (init : Byte) :
    l.foldl (fun acc i => acc ||| f i) init = 0 ↔ init = 0 ∧ ∀ i ∈ l, f i = 0 := by
  induction l generalizing init with
  | nil => simp
  | cons x l ih =>
    rw [List.foldl_cons, ih, List.forall_mem_cons, ← and_assoc]
    exact and_congr_left' BitVec.or_eq_zero_iff

theorem ctEqual_iff {a b : Bytes} (ha : a.length = 32) (hb : b.length = 32) : ctEqual a b = true ↔ a = b := by
  rw [ctEqual, beq_iff_eq, foldl_or_eq_zero_iff]
  constructor
  · rintro ⟨-, h⟩
    refine List.ext_getElem (ha.trans hb.symm) fun i hia hib => ?_
    have hi := BitVec.xor_eq_zero_iff.1 (h i (List.mem_range.2 (ha ▸ hia)))
    rwa [List.getD_eq_getElem _ _ hia, List.getD_eq_getElem _ _ hib] at hi
  · rintro rfl
    exact ⟨rfl, fun i _ => BitVec.xor_self⟩

theorem hmacAad_of_length {aad : Bytes} (h : aad.length = 32) (macKey msg : Bytes) :
    hmacAad macKey aad msg = .ok (hmac macKey (aad ++ msg)) :=
  if_neg (not_not.2 h)

/-! ### The padding (R132, R142) -/

/-- The padded text of `p` under the pad bytes `pad` (R132 where they are zero). -/
def paddedText (p pad : Bytes) : Bytes := be16 (BitVec.ofNat 16 p.length) ++ p ++ pad

theorem nip44Pad_eq_paddedText (p : Bytes) : nip44Pad p = paddedText p (zeros (calcPaddedLen p.length - p.length)) := rfl

theorem length_paddedText (p pad : Bytes) : (paddedText p pad).length = 2 + (p.length + pad.length) := by
  simp [paddedText]

/-- UNPAD returns the text whatever the pad bytes are, where they fill the padded length. -/
theorem nip44Unpad_paddedText {p pad : Bytes} (hmin : 1 ≤ p.length) (hmax : p.length ≤ 65535)
    (hpad : p.length + pad.length = calcPaddedLen p.length) : nip44Unpad (paddedText p pad) = .ok p := by
  have hprefix : (u16be (paddedText p pad)).toNat = p.length := by
    rw [paddedText, List.append_assoc, u16be_be16_append, BitVec.toNat_ofNat, Nat.mod_eq_of_lt (by omega)]
  have htext : slice (paddedText p pad) 2 (2 + p.length) = p := by
    rw [paddedText, slice_append_left (by simp), slice_last (length_be16 _) rfl]
  have hlegal : ¬(p.length = 0 ∨ (paddedText p pad).length ≠ 2 + calcPaddedLen p.length) := by
    rw [length_paddedText, hpad]
    omega
  simp only [nip44Unpad, hprefix, if_neg hlegal, htext]

/-! ### The parts of an envelope (R137, R140) -/

/-- The payload before its text form (R137). -/
def envelope (nonce ct mac : Bytes) : Bytes := 0x02 :: nonce ++ ct ++ mac

theorem envelope_eq (nonce ct mac : Bytes) : envelope nonce ct mac = 0x02 :: nonce ++ ct ++ mac := rfl

section Envelope

variable {nonce ct mac : Bytes}

theorem length_envelope (hnonce : nonce.length = 32) (hmaclen : mac.length = 32) :
    (envelope nonce ct mac).length = 65 + ct.length := by
  simp [envelope, hnonce, hmaclen]
  omega

theorem length_base64Encode_envelope (hnonce : nonce.length = 32) (hmaclen : mac.length = 32) :
    (base64Encode (envelope nonce ct mac)).length = 4 * ((65 + ct.length + 2) / 3) := by
  rw [length_base64Encode, length_envelope hnonce hmaclen]

theorem slice_envelope (hnonce : nonce.length = 32) (hmaclen : mac.length = 32) :
    slice (envelope nonce ct mac) 1 33 = nonce ∧ slice (envelope nonce ct mac) 33 (33 + ct.length) = ct ∧
      slice (envelope nonce ct mac) (33 + ct.length) (65 + ct.length) = mac := by
  have hhead : (0x02 :: nonce).length = 33 := by rw [List.length_cons, hnonce]
  have hbody : ((0x02 :: nonce) ++ ct).length = 33 + ct.length := by rw [List.length_append, hhead]
  refine ⟨?nonce, ?ct, slice_last hbody (by omega)⟩
  case nonce =>
    rw [envelope, slice_append_left (by omega), slice_append_left (by omega)]
    exact slice_last (front := [0x02]) rfl (by omega)
  case ct => rw [envelope, slice_append_left (by omega), slice_last hhead rfl]

/-- The text of an envelope with a ciphertext of 34 to 65538 bytes passes every check before the MAC (R140). -/
theorem nip44Dec_envelope (ck : Bytes) (hnonce : nonce.length = 32) (hmaclen : mac.length = 32) (hmin : 34 ≤ ct.length)
    (hmax : ct.length ≤ 65538) : nip44Dec ck (base64Encode (envelope nonce ct mac)) = nip44Open ck nonce ct mac := by
  have hlen := length_envelope (ct := ct) hnonce hmaclen
  obtain ⟨fieldNonce, fieldCt, fieldMac⟩ := slice_envelope (ct := ct) hnonce hmaclen
  have hversion : ¬(envelope nonce ct mac).getD 0 0 ≠ 0x02 := not_not.2 rfl
  have htext := length_base64Encode_envelope (ct := ct) hnonce hmaclen
  rw [nip44Dec, if_neg (by omega), base64Decode_base64Encode]
  simp only [if_neg hversion, hlen, show 65 + ct.length - 32 = 33 + ct.length by omega, fieldNonce, fieldCt, fieldMac]
  rw [if_neg (by omega)]

/-- A wrong MAC stops NIP44_DEC before anything is decrypted. -/
theorem nip44Open_of_mac_ne (ck ct : Bytes) (hnonce : nonce.length = 32) (hmaclen : mac.length = 32)
    (hne : hmac (messageKeys ck nonce).macKey (nonce ++ ct) ≠ mac) : nip44Open ck nonce ct mac = .error .mac := by
  have hdiff : ctEqual (hmac (messageKeys ck nonce).macKey (nonce ++ ct)) mac = false := by
    rw [← Bool.not_eq_true, ctEqual_iff (length_hmac _ _) hmaclen]
    exact hne
  simp only [nip44Open, hmacAad_of_length hnonce, if_pos hdiff]

/-- Under the right MAC, a ciphertext that decrypts is unpadded. -/
theorem nip44Open_of_mac {ck padded : Bytes} (hnonce : nonce.length = 32)
    (h : chacha20 (messageKeys ck nonce).streamKey (messageKeys ck nonce).streamNonce 0 ct = .ok padded) :
    nip44Open ck nonce ct (hmac (messageKeys ck nonce).macKey (nonce ++ ct)) = nip44Unpad padded := by
  have hsame := (ctEqual_iff (length_hmac (messageKeys ck nonce).macKey (nonce ++ ct)) (length_hmac _ _)).2 rfl
  simp only [nip44Open, hmacAad_of_length hnonce, hsame, h]
  rfl

end Envelope

/-! ### NIP44_ENCRYPT (R137-R139) -/

/-- The counter 0 leaves room for every text that the envelope can hold. -/
theorem chacha20_zero_of_length_le (key nonce : Bytes) {data : Bytes} (h : data.length ≤ 65603) :
    ∃ out, chacha20 key nonce 0 data = .ok out := by
  refine ⟨_, chacha20_eq_ok_iff.2 ⟨.inr ?_, rfl⟩⟩
  show 0 + (data.length + 63) / 64 ≤ 2 ^ 32
  omega

theorem length_nip44Pad (p : Bytes) : (nip44Pad p).length = 2 + calcPaddedLen p.length := by
  have hle := le_calcPaddedLen p.length
  rw [nip44Pad_eq_paddedText, length_paddedText, length_zeros]
  omega

theorem encodedWithinBounds_of_length {out : Bytes} (hmin : 132 ≤ out.length) (hmax : out.length ≤ 87472) :
    encodedWithinBounds out = .ok out :=
  if_neg (by omega)

/-- NIP44_ENC of a legal plaintext: the text of the envelope with the encrypted padded plaintext and its MAC. -/
theorem nip44Enc_of_legal {nonce p : Bytes} (ck : Bytes) (hnonce : nonce.length = 32) (hmin : 1 ≤ p.length)
    (hmax : p.length ≤ 65535) :
    ∃ ct, chacha20 (messageKeys ck nonce).streamKey (messageKeys ck nonce).streamNonce 0 (nip44Pad p) = .ok ct ∧
      ct.length = 2 + calcPaddedLen p.length ∧
      nip44Enc ck nonce p =
        .ok (base64Encode (envelope nonce ct (hmac (messageKeys ck nonce).macKey (nonce ++ ct)))) := by
  obtain ⟨hlow, hhigh⟩ := calcPaddedLen_bounds hmin hmax
  obtain ⟨ct, hct⟩ := chacha20_zero_of_length_le (messageKeys ck nonce).streamKey (messageKeys ck nonce).streamNonce
    (data := nip44Pad p) (by rw [length_nip44Pad]; omega)
  have hlen : ct.length = 2 + calcPaddedLen p.length := by rw [length_of_chacha20_eq_ok hct, length_nip44Pad]
  refine ⟨ct, hct, hlen, ?_⟩
  have htext := length_base64Encode_envelope (ct := ct) hnonce (length_hmac (messageKeys ck nonce).macKey (nonce ++ ct))
  rw [nip44Enc, if_neg (by omega)]
  simp only [hct, hmacAad_of_length hnonce]
  exact encodedWithinBounds_of_length (by rw [← envelope_eq]; omega) (by rw [← envelope_eq]; omega)

theorem exec_nip44Encrypt (ck nonce p : Bytes) (s : State) :
    exec (.nip44Encrypt ck nonce p) s = .next (finishOne s (nip44Enc ck nonce p)) := rfl

theorem nip44Enc_of_illegal_length {p : Bytes} (ck nonce : Bytes) (h : p.length < 1 ∨ 65535 < p.length) :
    nip44Enc ck nonce p = .error .plaintextLen :=
  if_pos h

/-- Settles O58. -/
theorem nip44EncryptResult : Obligations.Nip44EncryptResult := by
  refine fun s ck nonce p hnonce => ⟨fun hmin hmax => ?ok, fun h => ?illegal⟩
  case ok =>
    obtain ⟨ct, -, hlen, henc⟩ := nip44Enc_of_legal ck hnonce hmin hmax
    obtain ⟨hlow, hhigh⟩ := calcPaddedLen_bounds hmin hmax
    have htext := length_base64Encode_envelope (ct := ct) hnonce (length_hmac (messageKeys ck nonce).macKey (nonce ++ ct))
    refine ⟨_, henc, by rw [exec_nip44Encrypt, henc]; rfl, ?_, ?_, ?_⟩ <;> omega
  case illegal =>
    rw [exec_nip44Encrypt, nip44Enc_of_illegal_length ck nonce h]
    rfl

/-! ### NIP44_DECRYPT (R140-R143) -/

theorem exec_nip44Decrypt (ck payload : Bytes) (s : State) :
    exec (.nip44Decrypt ck payload) s = .next (finishOne s (nip44Dec ck payload)) := rfl

/-- The envelope of an encrypted padded text under the right MAC opens to the text, whatever its pad bytes are. -/
theorem nip44Dec_of_paddedText {ck nonce p pad ct : Bytes} (hnonce : nonce.length = 32) (hmin : 1 ≤ p.length)
    (hmax : p.length ≤ 65535) (hpad : p.length + pad.length = calcPaddedLen p.length)
    (hct : chacha20 (messageKeys ck nonce).streamKey (messageKeys ck nonce).streamNonce 0 (paddedText p pad) = .ok ct) :
    nip44Dec ck (base64Encode (envelope nonce ct (hmac (messageKeys ck nonce).macKey (nonce ++ ct)))) = .ok p := by
  obtain ⟨hlow, hhigh⟩ := calcPaddedLen_bounds hmin hmax
  have hlen : ct.length = 2 + calcPaddedLen p.length := by rw [length_of_chacha20_eq_ok hct, length_paddedText, hpad]
  rw [nip44Dec_envelope ck hnonce (length_hmac _ _) (by omega) (by omega),
    nip44Open_of_mac hnonce (chacha20SelfInverse _ _ _ _ _ hct), nip44Unpad_paddedText hmin hmax hpad]

/-- Settles O59: what NIP44_ENCRYPT writes is the envelope whose pad bytes are zero. -/
theorem nip44RoundTrip : Obligations.Nip44RoundTrip := by
  refine ⟨fun s u ck nonce p hnonce hmin hmax => ?roundTrip, fun s ck nonce p pad ct hnonce hmin hmax hpad hct => ?anyPad⟩
  case roundTrip =>
    obtain ⟨ct, hct, -, henc⟩ := nip44Enc_of_legal ck hnonce hmin hmax
    have hfill : p.length + (zeros (calcPaddedLen p.length - p.length)).length = calcPaddedLen p.length := by
      rw [length_zeros, Nat.add_sub_cancel' (le_calcPaddedLen _)]
    refine ⟨_, by rw [exec_nip44Encrypt, henc]; rfl, ?_⟩
    rw [exec_nip44Decrypt, nip44Dec_of_paddedText hnonce hmin hmax hfill hct]
    rfl
  case anyPad =>
    rw [exec_nip44Decrypt, ← envelope_eq, nip44Dec_of_paddedText hnonce hmin hmax hpad hct]
    rfl

/-- Settles O60: the MAC key is the last of the three message keys. -/
theorem nip44WrongMacRefused : Obligations.Nip44WrongMacRefused := by
  intro s ck nonce ct mac hnonce hmaclen hmin hmax hne
  rw [exec_nip44Decrypt, ← envelope_eq, nip44Dec_envelope ck hnonce hmaclen hmin hmax,
    nip44Open_of_mac_ne ck ct hnonce hmaclen hne]
  rfl

end Sys2Proof.Machine
end

section
/-! The errors of each command (60_exceptions.md R151): first those of each unit, then those of the commands. -/

namespace Sys2Proof.Machine

/-! ### The errors of the units -/

theorem csrValue_error {s : State} {a : Half} {e : CmdError} (h : csrValue s a = .error e) : e = .csrAddr := by
  unfold csrValue at h
  split_ifs at h
  exact (Except.error.inj h).symm

theorem eosError_mem (s : State) : eosError s ∈ [CmdError.clean, .partialFrame, .alreadyClosed, .wasFaulted] := by
  unfold eosError
  split_ifs <;> decide

theorem pkcs7Unpad_error {m : Bytes} {e : CmdError} (h : pkcs7Unpad m = .error e) : e ∈ [CmdError.padValue, .padBytes] := by
  dsimp only [pkcs7Unpad] at h
  split_ifs at h <;> simp [← Except.error.inj h]

theorem cbcDec_error {key iv c : Bytes} {e : CmdError} (h : cbcDec key iv c = .error e) :
    e ∈ [CmdError.ctLen, .padValue, .padBytes] := by
  unfold cbcDec at h
  split_ifs at h
  · simp [← Except.error.inj h]
  · exact List.mem_cons_of_mem _ (pkcs7Unpad_error h)

theorem ecdh_error {d x : Bytes} {e : CmdError} (h : ecdh d x = .error e) : e ∈ [CmdError.scalar, .point] := by
  by_cases hscalar : intBe d = 0 ∨ curveN ≤ intBe d
  · rw [ecdh_of_illegal_scalar x hscalar] at h
    simp [← Except.error.inj h]
  · cases hlift : liftX (intBe x) with
    | error e' =>
      rw [ecdh_of_liftX_error (by omega) (by omega) hlift] at h
      simp [← Except.error.inj h, liftX_error hlift]
    | ok pt =>
      rw [ecdh_of_liftX_ok (by omega) (by omega) hlift] at h
      cases h

theorem conversationKey_error {d x : Bytes} {e : CmdError} (h : conversationKey d x = .error e) : ecdh d x = .error e := by
  unfold conversationKey at h
  cases hecdh : ecdh d x with
  | error e' => rwa [hecdh] at h
  | ok shared =>
    rw [hecdh] at h
    cases h

theorem chacha20_error {key nonce data : Bytes} {ctr : Word} {e : CmdError} (h : chacha20 key nonce ctr data = .error e) :
    e = .chachaCounter := by
  unfold chacha20 at h
  split_ifs at h
  exact (Except.error.inj h).symm

theorem base64DecodeGroup_error {isLast : Bool} {q : Bytes} {e : CmdError} (h : base64DecodeGroup isLast q = .error e) :
    e = .base64 := by
  dsimp only [base64DecodeGroup] at h
  split at h
  · split_ifs at h <;> exact (Except.error.inj h).symm
  · exact (Except.error.inj h).symm

theorem base64DecodeGroups_error {qs : List Bytes} {e : CmdError} (h : base64DecodeGroups qs = .error e) : e = .base64 := by
  induction qs with
  | nil => cases h
  | cons q qs ih =>
    rw [base64DecodeGroups] at h
    cases hgroup : base64DecodeGroup qs.isEmpty q with
    | error e' =>
      rw [hgroup] at h
      exact base64DecodeGroup_error (hgroup.trans h)
    | ok b =>
      cases hrest : base64DecodeGroups qs with
      | error e' =>
        rw [hgroup, hrest] at h
        exact ih (hrest.trans h)
      | ok bs =>
        rw [hgroup, hrest] at h
        cases h

theorem base64Decode_error {t : Bytes} {e : CmdError} (h : base64Decode t = .error e) : e = .base64 := by
  unfold base64Decode at h
  split_ifs at h
  · exact (Except.error.inj h).symm
  · exact base64DecodeGroups_error h

theorem nip44Unpad_error {padded : Bytes} {e : CmdError} (h : nip44Unpad padded = .error e) : e = .padding := by
  dsimp only [nip44Unpad] at h
  split_ifs at h
  exact (Except.error.inj h).symm

/-- With a 32-byte nonce and a ciphertext that an envelope can hold, neither AAD_LEN nor CHACHA_COUNTER is reached. -/
theorem nip44Open_error {ck nonce ct mac : Bytes} {e : CmdError} (hnonce : nonce.length = 32) (hct : ct.length ≤ 65603)
    (h : nip44Open ck nonce ct mac = .error e) : e ∈ [CmdError.mac, .padding] := by
  obtain ⟨padded, hpadded⟩ :=
    chacha20_zero_of_length_le (messageKeys ck nonce).streamKey (messageKeys ck nonce).streamNonce hct
  simp only [nip44Open, hmacAad_of_length hnonce, hpadded] at h
  split_ifs at h
  · simp [← Except.error.inj h]
  · simp [nip44Unpad_error h]

theorem nip44Dec_error {ck payload : Bytes} {e : CmdError} (h : nip44Dec ck payload = .error e) :
    e ∈ [CmdError.encodedLen, .base64, .decodedLen, .version, .mac, .padding] := by
  unfold nip44Dec at h
  split_ifs at h
  · simp [← Except.error.inj h]
  cases hraw : base64Decode payload with
  | error e' =>
    rw [hraw] at h
    simp [← Except.error.inj h, base64Decode_error hraw]
  | ok raw =>
    simp only [hraw] at h
    split_ifs at h with hlen
    · simp [← Except.error.inj h]
    · simp [← Except.error.inj h]
    · have hnonce : (slice raw 1 33).length = 32 := by
        rw [length_slice]
        omega
      have hct : (slice raw 33 (raw.length - 32)).length ≤ 65603 := by
        rw [length_slice]
        omega
      exact List.mem_of_mem_drop (i := 4) (nip44Open_error hnonce hct h)

/-- With a 32-byte nonce, PLAINTEXT_LEN is the one error of NIP44_ENC (46_nip44.md R138). -/
theorem nip44Enc_error {ck nonce p : Bytes} {e : CmdError} (hnonce : nonce.length = 32)
    (h : nip44Enc ck nonce p = .error e) : e = .plaintextLen := by
  by_cases hlen : p.length < 1 ∨ 65535 < p.length
  · exact (Except.error.inj ((nip44Enc_of_illegal_length ck nonce hlen).symm.trans h)).symm
  · obtain ⟨ct, -, -, henc⟩ := nip44Enc_of_legal (p := p) ck hnonce (by omega) (by omega)
    rw [henc] at h
    cases h

/-! ### The errors of the commands -/

/-- A command ended in `t` with OK, or with one of the errors `errs`. -/
def EndsWithin (errs : List CmdError) (t : State) : Prop :=
  (t.lastStatus = 0x00 ∧ t.lastSub = 0x00) ∨ ∃ e ∈ errs, t.lastStatus = e.status ∧ t.lastSub = e.sub

theorem endsWithin_complete (errs : List CmdError) (s : State) (outs : List Bytes) : EndsWithin errs (complete s outs) :=
  .inl ⟨rfl, rfl⟩

theorem endsWithin_raise {errs : List CmdError} {e : CmdError} (h : e ∈ errs) (s : State) : EndsWithin errs (raise s e) :=
  .inr ⟨e, h, rfl, rfl⟩

theorem endsWithin_finishOne {errs : List CmdError} {r : Except CmdError Bytes} (s : State)
    (h : ∀ e, r = .error e → e ∈ errs) : EndsWithin errs (finishOne s r) := by
  rcases finishOne_cases s r with ⟨out, -, hr⟩ | ⟨e, he, hr⟩ <;> rw [hr]
  · exact endsWithin_complete errs s [out]
  · exact endsWithin_raise (h e he) s

/-- A result guarded by one check has that check's error alone. -/
theorem mem_of_ite_error {c : Prop} [Decidable c] {e e' : CmdError} {out : Bytes}
    (h : (if c then .error e' else .ok out : Except CmdError Bytes) = .error e) : e ∈ [e'] := by
  split_ifs at h
  simp [← Except.error.inj h]

theorem exec_csrRead_endsWithin (a : Half) (s : State) :
    ∃ t, exec (.csrRead a) s = .next t ∧ EndsWithin [.csrAddr] t := by
  cases hv : csrValue s a with
  | ok w => exact ⟨_, exec_csrRead_of_ok hv, endsWithin_complete _ s [be32 w]⟩
  | error e => exact ⟨_, exec_csrRead_of_error hv, endsWithin_raise (List.mem_singleton.2 (csrValue_error hv)) s⟩

theorem exec_csrWrite_endsWithin (a : Half) (v : Word) (s : State) :
    ∃ t, exec (.csrWrite a v) s = .next t ∧ EndsWithin [.csrRo, .csrAddr] t := by
  rcases csrStore_cases s a v with ⟨-, h⟩ | ⟨-, h⟩ | ⟨-, h⟩ | ⟨-, h⟩
  · exact ⟨_, exec_csrWrite_of_ok h, endsWithin_complete _ _ _⟩
  · exact ⟨_, exec_csrWrite_of_ok h, endsWithin_complete _ _ _⟩
  · exact ⟨_, exec_csrWrite_of_error h, endsWithin_raise (by simp) s⟩
  · exact ⟨_, exec_csrWrite_of_error h, endsWithin_raise (by simp) s⟩

theorem exec_decFeed_endsWithin (chunk : Bytes) (s : State) :
    ∃ t, exec (.decFeed chunk) s = .next t ∧ EndsWithin [.alreadyClosed, .faulted] t := by
  cases hd : s.dstate with
  | awaitHeader => exact ⟨_, exec_decFeed_of_open (.inl hd) chunk, endsWithin_complete _ _ _⟩
  | awaitPayload => exact ⟨_, exec_decFeed_of_open (.inr hd) chunk, endsWithin_complete _ _ _⟩
  | closed => exact ⟨_, exec_decFeed_of_closed hd chunk, endsWithin_raise (by simp) s⟩
  | faulted => exact ⟨_, exec_decFeed_of_faulted hd chunk, endsWithin_raise (by simp) s⟩

/-- The table of 60_exceptions.md R151, one row after the other. -/
theorem exec_endsWithin {i : Instr} {s : State} (hwf : i.wellFormed s.cfg = true) :
    ∃ t, exec i s = .next t ∧ EndsWithin (errorsOf i.opcode) t := by
  cases i with
  | nop | softReset | crcInit | crcUpdate | frameEncode | decReset | aesCbcEnc | hmacSha256 | hkdfExtract =>
    exact ⟨_, rfl, endsWithin_complete _ _ _⟩
  | csrRead a => exact exec_csrRead_endsWithin a s
  | csrWrite a v => exact exec_csrWrite_endsWithin a v s
  | crc16 data start stop =>
    refine ⟨_, rfl, endsWithin_finishOne s fun e h => ?_⟩
    rw [← ite_not] at h
    exact mem_of_ite_error h
  | decFeed chunk => exact exec_decFeed_endsWithin chunk s
  | decEos => exact ⟨_, exec_decEos s, endsWithin_raise (eosError_mem s) _⟩
  | aesCbcDec key iv c => exact ⟨_, rfl, endsWithin_finishOne s fun _ => cbcDec_error⟩
  | hkdfExpand prk info len => exact ⟨_, rfl, endsWithin_finishOne s fun _ => mem_of_ite_error⟩
  | ecdhX d x => exact ⟨_, rfl, endsWithin_finishOne s fun _ => ecdh_error⟩
  | chacha20 key nonce ctr data =>
    exact ⟨_, rfl, endsWithin_finishOne s fun _ h => List.mem_singleton.2 (chacha20_error h)⟩
  | nip44Convkey d x => exact ⟨_, rfl, endsWithin_finishOne s fun _ h => ecdh_error (conversationKey_error h)⟩
  | nip44Encrypt ck nonce p =>
    simp only [Instr.wellFormed, Bool.and_eq_true, beq_iff_eq] at hwf
    obtain ⟨⟨-, hnonce⟩, -⟩ := hwf
    exact ⟨_, rfl, endsWithin_finishOne s fun _ h => List.mem_singleton.2 (nip44Enc_error hnonce h)⟩
  | nip44Decrypt ck payload => exact ⟨_, rfl, endsWithin_finishOne s fun _ => nip44Dec_error⟩

/-- DEC_EOS raises in every state (41_frame_codec.md R83). -/
theorem lastStatus_of_exec_decEos {s t : State} (h : exec .decEos s = .next t) : t.lastStatus ≠ 0 := by
  obtain rfl := Host.Outcome.next.inj ((exec_decEos s).symm.trans h)
  exact (eosError s).status_ne_zero

/-- Settles O12. -/
theorem errorsOfEachCommand : Obligations.ErrorsOfEachCommand := by
  intro i s t _ hwf h
  obtain ⟨t', h', hends⟩ := exec_endsWithin hwf
  obtain rfl := Host.Outcome.next.inj (h'.symm.trans h)
  refine hends.imp_left fun ⟨hstatus, hsub⟩ => ⟨hstatus, hsub, ?_⟩
  rintro rfl
  exact lastStatus_of_exec_decEos h hstatus

end Sys2Proof.Machine
end

section
/-! U0, control (47_control.md): NOP and SOFT_RESET, the two commands with no operand and no output. -/

namespace Sys2Proof.Machine

/-! ### Commands without operands or outputs (30_encoding.md R50, R52) -/

/-- STATUS 00, SUB 00 and NOUT 0000 are the whole response. -/
@[simp] theorem okResponse_nil : okResponse [] = [0x00, 0x00, 0x00, 0x00] := rfl

/-- The operand walk of a command without operands reads nothing, so that every byte behind its header is left over. -/
theorem decodeOperands_of_no_operands {cfg : Config} {o : Opcode} {rest : Bytes} (hcount : operandCount o = 0)
    (hrest : rest ≠ []) : decodeOperands cfg o rest = .error .trailing := by
  refine decodeOperands_of_trailing (ops := []) ?_ hrest
  rw [hcount, walkOperands]

theorem encode_nop : encode .nop = [0x00, 0x00, 0x00, 0x00] := rfl

/-- NOP is its header alone. -/
theorem headerBytes_nop : headerBytes .nop = encode .nop := rfl

/-! ### The commands (R144, R147) -/

theorem exec_nop (s : State) : exec .nop s = .next (afterOk s []) := rfl

theorem exec_softReset (s : State) : exec .softReset s = .next (afterOk (resetRecord s) []) := rfl

/-- Settles O18: `afterOk` of `resetRecord` is the record written out, its response that of no outputs. -/
theorem softResetResult : Obligations.SoftResetResult := by
  intro s
  rw [exec_softReset, afterOk, okResponse_nil]
  rfl

/-- Settles O19: the bytes behind NOP's header are the TRAILING ones, as NOP has no operand. -/
theorem nopResult : Obligations.NopResult := by
  refine ⟨encode_nop, fun s => ?runs, fun cfg b rest => ?trailing, rfl, rfl⟩
  case runs => rw [exec_nop, afterOk, okResponse_nil]
  case trailing =>
    rw [← encode_nop, ← headerBytes_nop, decode_headerBytes]
    exact decodeOperands_of_no_operands rfl (List.cons_ne_nil b rest)

end Sys2Proof.Machine
end

section
/-! What an error and an idle block leave (60_exceptions.md): a raised error writes the status alone (R150), and without a
descriptor the state persists (R166). -/

namespace Sys2Proof.Machine

/-! ### Errors (R150) -/

/-- A status that is not OK shows that the command raised, and every command but DEC_EOS raises before it writes. -/
theorem exec_raised {i : Instr} {s t : State} (hi : i ≠ .decEos) (h : exec i s = .next t) (hstatus : t.lastStatus ≠ 0) :
    ∃ e, t = raise s e := by
  rcases exec_cases i s with ⟨u, outs, -, hcompletes⟩ | ⟨e, hraises⟩ | ⟨heos, -⟩
  · obtain rfl := Host.Outcome.next.inj (h.symm.trans hcompletes)
    exact absurd (complete_lastStatus u outs) hstatus
  · exact ⟨e, Host.Outcome.next.inj (h.symm.trans hraises)⟩
  · exact absurd heos hi

/-- Settles O11. -/
theorem failedCommandChangesNothing : Obligations.FailedCommandChangesNothing := by
  intro i s t hi h hstatus
  obtain ⟨e, rfl⟩ := exec_raised hi h hstatus
  rw [raise_lastStatus, raise_lastSub, raise_eq_afterError]

/-! ### The idle block (R166) -/

/-- Settles O9: the port is empty, so that the cycle takes no command (log entry 3). -/
theorem idleStepKeepsState : Obligations.IdleStepKeepsState := by
  intro s hidle
  rw [step, commandCycle, takeCommand_eq_none.2 hidle]

end Sys2Proof.Machine
end
